-- ==== Sys2Proof/Word.lean ====
section
/-! DEFINITION. The word types of the block: an 8-bit data byte and a 16-bit bus address (spec/00_scope.md R7). -/

namespace Sys2Proof

/-- The data word: "data word 8 bits" (00_scope.md R7). -/
abbrev Byte := BitVec 8

/-- A bus address: "address 16 bits" (00_scope.md R7); arithmetic on it is modulo 65 536 (R9). -/
abbrev Addr := BitVec 16

end Sys2Proof
end

