-- ==== Sys2Proof/Config.lean ====
section
/-! DEFINITION. The block's parameters (00_scope.md R8) as plain data, and the free values: opaque constants, with no
body, that stand for what the spec leaves open (`Draw()`, host images, OPEN parameters). -/

namespace Sys2Proof

/-! ## Free values
Nothing can be proved about the value of any constant of this section. -/

/-- `Draw()` of a byte (00_scope.md R16): the value of the `n`-th draw of a run. -/
opaque Config.drawByte : Nat → Byte
/-- `Draw()` of a bit (64_disk_lss.md R602): the value of the `n`-th draw of a run. -/
opaque Config.drawBit : Nat → Bool
/-- `Draw()` of the `dim` flag (62_video.md R512): the `n`-th draw, for framebuffer row and column. -/
opaque Config.drawDim : Nat → Nat → Nat → Bool
/-- `ROM` (00_scope.md R8): the host's 16 384-byte main ROM image, by offset from $C000. -/
opaque Config.romByte : Nat → Byte
/-- `LSS_ROM` (00_scope.md R8): the host's 256-byte Disk II sequencer ROM. -/
opaque Config.lssRomByte : Nat → Byte
/-- `CHAR_ROM(bank, code, l)` (62_video.md R506): 7 pixels in bits 6-0, bit `i` being `g_i`; the bank is the flag `rom_bank`. -/
opaque Config.charRomGlyph : Bool → Byte → Nat → Byte
/-- `DHGR_LUT(phase, value)` (62_video.md R520). -/
opaque Config.dhgrColour : Nat → Nat → BitVec 4
/-- `PALETTE(i)` (62_video.md R530): red, green and blue of colour `c` in palette `i`. -/
opaque Config.paletteRgb : Nat → Nat → Byte × Byte × Byte
/-- The palette the `monochrome` option makes of the selected one: the option changes the palette (62_video.md R509), and
the spec does not say to which. -/
opaque Config.monochromePalette : Nat → Fin 6
/-- The index of the green monochrome palette (62_video.md R530 does not say which of the six it is). -/
opaque Config.greenPalette : Fin 6
/-- How far after it, cyclically and less one, the index of the amber one lies. -/
opaque Config.amberOffset : Fin 5
/-- The palette whose colours a palette shown in monochrome takes its luminances from (R530 does not say). -/
opaque Config.monoSource : Nat → Fin 6
/-- The base hue `(br, bg, bb)` of a palette shown in monochrome (OPEN, 62_video.md R530). -/
opaque Config.monoHue : Nat → Byte × Byte × Byte
/-- Whether a component of a monochrome palette that is no integer rounds up (rounding OPEN, 62_video.md R530): palette,
colour, component 0 to 2. -/
opaque Config.monoRoundsUp : Nat → Nat → Nat → Bool
/-- Whether a component of `clut_low` that is no integer rounds up (62_video.md R530 gives no rounding): palette, colour,
component 0 to 2. -/
opaque Config.dimRoundsUp : Nat → Nat → Nat → Bool
/-- `SECONDARY` (63_audio.md R578): the `n`-th stereo pair of the secondary source. -/
opaque Config.secondarySample : Nat → BitVec 16 × BitVec 16
/-- Whether the host's `SAMPLE_RATE` is 44 100 (else 22 050; 00_scope.md R8 admits only these two). -/
opaque Config.sampleRateIs44100 : Bool
/-- `SAMPLE_BUFFER_OFFSET − 1` (OPEN with `0 < SAMPLE_BUFFER_OFFSET`, 63_audio.md R563). -/
opaque Config.sampleBufferOffsetLess1 : Nat
/-- `RING_N − SAMPLE_BUFFER_OFFSET − 1` (OPEN with `SAMPLE_BUFFER_OFFSET < RING_N`, 63_audio.md R563). -/
opaque Config.ringSlack : Nat
/-- Numerator of `VOLUME` (OPEN, 63_audio.md R570). -/
opaque Config.volumeNum : Nat
/-- Denominator of `VOLUME`, less one. -/
opaque Config.volumeDenLess1 : Nat
/-- Whether the quotient `n / d`, when it is no integer, rounds up where `k · speed` is taken from `remaining`: the
further parameter of 61_timers.md R458. -/
opaque Config.speedRoundsUp : Nat → Nat → Bool
/-- The form of a bit-instruction opcode that `HAS_BIT_OPS = false` leaves undefined under `UNDEF_POLICY = Wdc`: the
table of 30_encoding.md R143 gives none. The value is 0 to 4, see `Machine.wdcForm`. -/
opaque Config.wdcBitOpForm : Byte → Fin 5
/-- The cycles of such an opcode: the value 0 to 4 picks one of "1, 2, 3, 4 or 8" (46_flags_nop.md R391). -/
opaque Config.wdcBitOpCost : Byte → Fin 5

/-! ## Constants the source fixes (00_scope.md R8) -/

/-- `VBL_VISIBLE`: cycles of the visible phase. -/
def Config.vblVisible : Nat := 12480
/-- `VBL_BLANK`: cycles of the blanking phase. -/
def Config.vblBlank : Nat := 4550
/-- `CYCLES_PER_FRAME`: cycles per iteration of the outer loop. -/
def Config.cyclesPerFrame : Nat := 17030
/-- `CPU_HZ_CONST`: divisor of the samples-per-cycle constant. -/
def Config.cpuHz : Nat := 1020484
/-- `QTRACK_MAX`: the highest quarter-track the head reaches. -/
def Config.qtrackMax : Nat := 140
/-- The most bits a track holds: 6 656 · 8 (64_disk_lss.md R601). -/
def Config.maxTrackBits : Nat := 53248

/-! ## Parameters as plain data -/

/-- `UNDEF_POLICY` (00_scope.md R8). -/
inductive UndefPolicy where
  | docNop2
  | wdc
  deriving DecidableEq, Repr, Inhabited

/-- `UNTRAPPED_BRK` (00_scope.md R8). -/
inductive UntrappedBrk where
  | nop2
  | interrupt
  deriving DecidableEq, Repr, Inhabited

/-- A function-valued parameter with a default: the default of this spec, or a function the host supplies (then an
opaque constant stands for it). -/
inductive HostFunction where
  | specDefault
  | supplied
  deriving DecidableEq, Repr, Inhabited

/-- A byte image the host supplies: `host` is the opaque constant of that image, `cells` an image written out (a byte
it does not list is 0), so that a test can name the bytes it reads. -/
inductive Image where
  | host
  | cells (bytes : List Host.Cell)
  deriving DecidableEq, Repr, Inhabited

/-- `SAMPLE_RATE`: "source {22 050, 44 100}" (00_scope.md R8). -/
inductive SampleRate where
  | r22050
  | r44100
  deriving DecidableEq, Repr, Inhabited

/-- `SPEED` (00_scope.md R8, 10_state.md R42): the real number `1 + extraNum / (denLess1 + 1)`, at least 1.0 whatever the
two fields hold. A speed is a quotient of naturals (notes/assumptions/14.md). -/
structure Speed where
  extraNum : Nat
  denLess1 : Nat
  deriving DecidableEq, Repr, Inhabited

/-- `SPEED = 1.0`, the default. -/
def Speed.unit : Speed := ⟨0, 0⟩

/-- The parameters of 00_scope.md R8 that a run keeps fixed. They are no state of the block (10_state.md R54): State
carries them as a read-only record so that every statement about all states is one about all parameters. -/
structure Params where
  /-- `HAS_BIT_OPS`. -/
  hasBitOps          : Bool
  /-- `UNDEF_POLICY`. -/
  undefPolicy        : UndefPolicy
  /-- `UNTRAPPED_BRK`. -/
  untrappedBrk       : UntrappedBrk
  /-- `TRAP_CYCLES`. -/
  trapCycles         : BitVec 32
  /-- `SPEED`, which `create` puts in `State.speed`. -/
  speed              : Speed
  /-- `BANK_SEL`. -/
  bankSel            : HostFunction
  /-- `AN3_MODE_UPDATE`. -/
  an3ModeUpdate      : HostFunction
  /-- `STEPPER_RULE`. -/
  stepperRule        : HostFunction
  /-- `ROM`, by offset from $C000. -/
  rom                : Image
  /-- `CARD_ROM`: the bytes the slot cards supply for $C100-$CFFF, by bus address; an address not listed reads the
  default, the main-ROM byte (20_memory.md R83). -/
  cardRom            : List Host.Cell
  /-- `CHAR_ROM`; written out, byte `bank·4096 + code·8 + l` holds the pixels of line `l`. -/
  charRom            : Image
  /-- `DHGR_LUT`; written out, byte `phase·16 + value` holds the colour in its low nibble. -/
  dhgrLut            : Image
  /-- `LSS_ROM`. -/
  lssRom             : Image
  /-- `DISK_SLOT`. -/
  diskSlot           : Fin 8
  /-- `bit_timing`, in 1/8 µs. -/
  bitTiming          : Nat
  /-- `LSS_STEPS_PER_CYCLE`. -/
  lssStepsPerCycle   : Nat
  /-- `SAMPLE_RATE`. -/
  sampleRate         : SampleRate
  /-- `RING_N`. -/
  ringN              : Nat
  /-- `SAMPLE_BUFFER_OFFSET`. -/
  sampleBufferOffset : Nat
  /-- `VOLUME`, as `volumeNum / volumeDen`. -/
  volumeNum          : Nat
  volumeDen          : Nat
  /-- Whether the secondary source is enabled, a host option (63_audio.md R578). -/
  secondaryEnabled   : Bool
  /-- The video options the host gives at creation (70_reset_and_hazards.md R700). -/
  monochrome         : Bool
  paletteIndex       : Nat
  romBank            : Bool
  deriving DecidableEq, Repr

/-- The parameters of `State.reset`: every default of 00_scope.md R8, and an opaque constant for every OPEN one. The
video options, host-given in the spec, are a DESIGN CHOICE (notes/assumptions/8.md). -/
def Params.standard : Params where
  hasBitOps          := true
  undefPolicy        := .docNop2
  untrappedBrk       := .nop2
  trapCycles         := 7#32
  speed              := .unit
  bankSel            := .specDefault
  an3ModeUpdate      := .specDefault
  stepperRule        := .specDefault
  rom                := .host
  cardRom            := []
  charRom            := .host
  dhgrLut            := .host
  lssRom             := .host
  diskSlot           := 6
  bitTiming          := 32
  lssStepsPerCycle   := 2
  sampleRate         := if Config.sampleRateIs44100 then .r44100 else .r22050
  ringN              := Config.sampleBufferOffsetLess1 + 1 + Config.ringSlack + 1
  sampleBufferOffset := Config.sampleBufferOffsetLess1 + 1
  volumeNum          := Config.volumeNum
  volumeDen          := Config.volumeDenLess1 + 1
  secondaryEnabled   := false
  monochrome         := false
  paletteIndex       := 0
  romBank            := false

/-- The host configurations the block accepts (93_implementation_defined.md section 1.3): `0 < SAMPLE_BUFFER_OFFSET <
RING_N`, and `bit_timing` a positive multiple of 4. -/
def Params.accepted (c : Params) : Bool :=
  decide (0 < c.sampleBufferOffset) && decide (c.sampleBufferOffset < c.ringN)
    && decide (0 < c.bitTiming) && decide (c.bitTiming % 4 = 0)

end Sys2Proof
end

