-- ==== Sys2Proof/Syntax.lean ====
section
/-! DEFINITION. The instructions of spec/opcode_table.json: one constructor per mnemonic of the table, its operand
carrying the addressing mode (30_encoding.md R135), so that the table's 256 rows are the well-formed terms of `Instr`. -/

namespace Sys2Proof

/-- The memory addressing modes of 30_encoding.md R135 that an instruction reads or writes one byte through. -/
inductive MemMode where
  /-- `OP $zz` -/
  | zp  (zz : Byte)
  /-- `OP $zz,X` -/
  | zpx (zz : Byte)
  /-- `OP $zz,Y` -/
  | zpy (zz : Byte)
  /-- `OP $hhll` -/
  | abs (w : Addr)
  /-- `OP $hhll,X` -/
  | abx (w : Addr)
  /-- `OP $hhll,Y` -/
  | aby (w : Addr)
  /-- `OP ($zz,X)` -/
  | izx (zz : Byte)
  /-- `OP ($zz),Y` -/
  | izy (zz : Byte)
  /-- `OP ($zz)` -/
  | izp (zz : Byte)
  deriving DecidableEq, Repr, Inhabited

/-- The source of a reading instruction: the immediate byte or a memory operand. -/
inductive Src where
  /-- `OP #$nn` -/
  | imm (nn : Byte)
  | mem (m : MemMode)
  deriving DecidableEq, Repr, Inhabited

/-- The target of a read-modify-write instruction (INC DEC ASL LSR ROL ROR). -/
inductive RmwMode where
  /-- `OP A` -/
  | acc
  | zp  (zz : Byte)
  | zpx (zz : Byte)
  | abs (w : Addr)
  | abx (w : Addr)
  deriving DecidableEq, Repr, Inhabited

/-- The target of TSB and TRB. -/
inductive TestMode where
  | zp  (zz : Byte)
  | abs (w : Addr)
  deriving DecidableEq, Repr, Inhabited

/-- The operand of JMP. -/
inductive JmpMode where
  /-- `JMP $hhll` -/
  | abs (w : Addr)
  /-- `JMP ($hhll)` -/
  | ind (w : Addr)
  /-- `JMP ($hhll,X)` -/
  | iax (w : Addr)
  deriving DecidableEq, Repr, Inhabited

/-- The operand bytes of an undefined opcode: none, one or two, as its length is 1, 2 or 3 (30_encoding.md R143). -/
inductive UndefOperand where
  | none
  | one (b1 : Byte)
  | two (b1 b2 : Byte)
  deriving DecidableEq, Repr, Inhabited

/-- The instruction set of 30_encoding.md R140. -/
inductive Instr where
  -- 40_load_store.md
  | lda (m : Src)
  | ldx (m : Src)
  | ldy (m : Src)
  | sta (m : MemMode)
  | stx (m : MemMode)
  | sty (m : MemMode)
  | stz (m : MemMode)
  -- 41_transfer_stack.md
  | tax
  | tay
  | txa
  | tya
  | tsx
  | txs
  | pha
  | php
  | phx
  | phy
  | pla
  | plp
  | plx
  | ply
  -- 42_arithmetic.md
  | adc (m : Src)
  | sbc (m : Src)
  | cmp (m : Src)
  | cpx (m : Src)
  | cpy (m : Src)
  | inc (m : RmwMode)
  | dec (m : RmwMode)
  | inx
  | iny
  | dex
  | dey
  -- 43_logic_shift.md
  | and (m : Src)
  | ora (m : Src)
  | eor (m : Src)
  | bit (m : Src)
  | tsb (m : TestMode)
  | trb (m : TestMode)
  | asl (m : RmwMode)
  | lsr (m : RmwMode)
  | rol (m : RmwMode)
  | ror (m : RmwMode)
  -- 44_bit_ops.md
  | rmb0 (zz : Byte)
  | rmb1 (zz : Byte)
  | rmb2 (zz : Byte)
  | rmb3 (zz : Byte)
  | rmb4 (zz : Byte)
  | rmb5 (zz : Byte)
  | rmb6 (zz : Byte)
  | rmb7 (zz : Byte)
  | smb0 (zz : Byte)
  | smb1 (zz : Byte)
  | smb2 (zz : Byte)
  | smb3 (zz : Byte)
  | smb4 (zz : Byte)
  | smb5 (zz : Byte)
  | smb6 (zz : Byte)
  | smb7 (zz : Byte)
  | bbr0 (zz rr : Byte)
  | bbr1 (zz rr : Byte)
  | bbr2 (zz rr : Byte)
  | bbr3 (zz rr : Byte)
  | bbr4 (zz rr : Byte)
  | bbr5 (zz rr : Byte)
  | bbr6 (zz rr : Byte)
  | bbr7 (zz rr : Byte)
  | bbs0 (zz rr : Byte)
  | bbs1 (zz rr : Byte)
  | bbs2 (zz rr : Byte)
  | bbs3 (zz rr : Byte)
  | bbs4 (zz rr : Byte)
  | bbs5 (zz rr : Byte)
  | bbs6 (zz rr : Byte)
  | bbs7 (zz rr : Byte)
  -- 45_control.md
  | bpl (rr : Byte)
  | bmi (rr : Byte)
  | bvc (rr : Byte)
  | bvs (rr : Byte)
  | bcc (rr : Byte)
  | bcs (rr : Byte)
  | bne (rr : Byte)
  | beq (rr : Byte)
  | bra (rr : Byte)
  | jmp (m : JmpMode)
  | jsr (w : Addr)
  | rts
  | rti
  | brk (t : Byte)
  -- 46_flags_nop.md
  | clc
  | sec
  | cli
  | sei
  | cld
  | sed
  | clv
  | nop
  | undef (op : Byte) (operand : UndefOperand)
  deriving DecidableEq, Repr, Inhabited

end Sys2Proof
end

