-- ==== Sys2Proof/Machine/Undefined.lean ====
section
/-! DEFINITION. Which opcodes are undefined and what form each has under either `UNDEF_POLICY` (30_encoding.md R143, R144). -/

namespace Sys2Proof.Machine

/-- The 46 opcodes undefined whatever the parameters: $02 $22 $42 $62 $82 $C2 $E2, $44 $54 $D4 $F4, $5C $DC $FC, every
$x3 and every $xB (30_encoding.md R143). -/
def alwaysUndefined (op : Byte) : Bool :=
  [0x02#8, 0x22#8, 0x42#8, 0x62#8, 0x82#8, 0xC2#8, 0xE2#8, 0x44#8, 0x54#8, 0xD4#8, 0xF4#8, 0x5C#8, 0xDC#8, 0xFC#8].contains op
    || op.extractLsb' 0 4 == 0x3#4 || op.extractLsb' 0 4 == 0xB#4

/-- The 32 opcodes of RMBn, SMBn, BBRn and BBSn: every $x7 and every $xF (30_encoding.md R144). -/
def isBitOpcode (op : Byte) : Bool :=
  op.extractLsb' 0 4 == 0x7#4 || op.extractLsb' 0 4 == 0xF#4

/-- The undefined opcodes: "When HAS_BIT_OPS = false, the 32 opcodes of rule R144 join them" (30_encoding.md R143). -/
def undefinedOpcode (c : Params) (op : Byte) : Bool :=
  alwaysUndefined op || (isBitOpcode op && !c.hasBitOps)

/-- What a `Wdc` undefined opcode is made of: its operand bytes and the operand it reads and discards (46_flags_nop.md R391). -/
inductive WdcForm where
  /-- one byte, no access -/
  | imp
  /-- two bytes, no access -/
  | imm
  /-- two bytes, reads `zz` -/
  | zp
  /-- two bytes, reads `(zz + X) & $FF` -/
  | zpx
  /-- three bytes, reads `hh:ll` -/
  | abs
  deriving DecidableEq, Repr, Inhabited

/-- The forms numbered, for the free value `Config.wdcBitOpForm`. -/
def wdcFormOf (n : Fin 5) : WdcForm :=
  match n with
  | 0 => .imp
  | 1 => .imm
  | 2 => .zp
  | 3 => .zpx
  | 4 => .abs

/-- The form of an undefined opcode under `Wdc`: the table of 30_encoding.md R143. For a bit opcode (undefined when
`HAS_BIT_OPS = false`) the table gives no row: a free value (notes/assumptions/12.md). -/
def wdcForm (op : Byte) : WdcForm :=
  if isBitOpcode op then wdcFormOf (Config.wdcBitOpForm op)
  else if op == 0x44#8 then .zp
  else if op == 0x54#8 || op == 0xD4#8 || op == 0xF4#8 then .zpx
  else if op == 0x5C#8 || op == 0xDC#8 || op == 0xFC#8 then .abs
  else if op.extractLsb' 0 4 == 0x2#4 then .imm
  else .imp

/-- The cycle counts of the `Wdc` table numbered, for the free value `Config.wdcBitOpCost`: "1, 2, 3, 4 or 8" (46_flags_nop.md
R391). -/
def wdcCostOf (n : Fin 5) : Nat :=
  match n with
  | 0 => 1
  | 1 => 2
  | 2 => 3
  | 3 => 4
  | 4 => 8

/-- The cycles of an undefined opcode under `Wdc`: the table of 30_encoding.md R143. For a bit opcode, which has no row,
a free value among the table's counts (notes/assumptions/12.md). -/
def wdcCycles (op : Byte) : Nat :=
  if isBitOpcode op then wdcCostOf (Config.wdcBitOpCost op)
  else if op == 0x44#8 then 3
  else if op == 0x54#8 || op == 0xD4#8 || op == 0xF4#8 then 4
  else if op == 0x5C#8 then 8
  else if op == 0xDC#8 || op == 0xFC#8 then 4
  else if op.extractLsb' 0 4 == 0x2#4 then 2
  else 1

/-- The operand bytes of an undefined opcode, from the two bytes that follow it: one under `DocNop2`, as many as its
form has under `Wdc` (30_encoding.md R143). -/
def undefOperand (c : Params) (op b1 b2 : Byte) : UndefOperand :=
  match c.undefPolicy with
  | .docNop2 => .one b1
  | .wdc =>
    match wdcForm op with
    | .imp => .none
    | .imm => .one b1
    | .zp  => .one b1
    | .zpx => .one b1
    | .abs => .two b1 b2

end Sys2Proof.Machine
end

