-- ==== Sys2Proof/WellFormed.lean ====
section
/-! DEFINITION. Which terms of `Instr` are instructions of the block: the addressing modes each one has (the Encoding
lines of files 40 to 43, 30_encoding.md R140), the bit instructions only when `HAS_BIT_OPS` (R144), and an undefined
opcode only with an undefined opcode byte and as many operand bytes as its length has (R143). -/

namespace Sys2Proof

/-- The modes of LDA, ADC, SBC, CMP, AND, ORA and EOR: imm zp zpx abs abx aby izx izy izp. -/
def Src.isAlu : Src → Bool
  | .mem (.zpy _) => false
  | _ => true

/-- The modes of LDX: imm zp zpy abs aby. -/
def Src.isLdx : Src → Bool
  | .imm _ | .mem (.zp _) | .mem (.zpy _) | .mem (.abs _) | .mem (.aby _) => true
  | _ => false

/-- The modes of LDY and BIT: imm zp zpx abs abx. -/
def Src.isLdy : Src → Bool
  | .imm _ | .mem (.zp _) | .mem (.zpx _) | .mem (.abs _) | .mem (.abx _) => true
  | _ => false

/-- The modes of CPX and CPY: imm zp abs. -/
def Src.isCpx : Src → Bool
  | .imm _ | .mem (.zp _) | .mem (.abs _) => true
  | _ => false

/-- The modes of STA: zp zpx abs abx aby izx izy izp. -/
def MemMode.isSta : MemMode → Bool
  | .zpy _ => false
  | _ => true

/-- The modes of STX: zp zpy abs. -/
def MemMode.isStx : MemMode → Bool
  | .zp _ | .zpy _ | .abs _ => true
  | _ => false

/-- The modes of STY: zp zpx abs. -/
def MemMode.isSty : MemMode → Bool
  | .zp _ | .zpx _ | .abs _ => true
  | _ => false

/-- The modes of STZ: zp zpx abs abx. -/
def MemMode.isStz : MemMode → Bool
  | .zp _ | .zpx _ | .abs _ | .abx _ => true
  | _ => false

/-- The instruction has an opcode in the mode of its operand. -/
def Instr.modeOk : Instr → Bool
  | .lda m | .adc m | .sbc m | .cmp m | .and m | .ora m | .eor m => m.isAlu
  | .ldx m => m.isLdx
  | .ldy m | .bit m => m.isLdy
  | .cpx m | .cpy m => m.isCpx
  | .sta m => m.isSta
  | .stx m => m.isStx
  | .sty m => m.isSty
  | .stz m => m.isStz
  | _ => true

/-- Is it one of the 32 Rockwell bit instructions of file 44? -/
def Instr.isBitOp : Instr → Bool
  | .rmb0 _ | .rmb1 _ | .rmb2 _ | .rmb3 _ | .rmb4 _ | .rmb5 _ | .rmb6 _ | .rmb7 _
  | .smb0 _ | .smb1 _ | .smb2 _ | .smb3 _ | .smb4 _ | .smb5 _ | .smb6 _ | .smb7 _
  | .bbr0 _ _ | .bbr1 _ _ | .bbr2 _ _ | .bbr3 _ _ | .bbr4 _ _ | .bbr5 _ _ | .bbr6 _ _ | .bbr7 _ _
  | .bbs0 _ _ | .bbs1 _ _ | .bbs2 _ _ | .bbs3 _ _ | .bbs4 _ _ | .bbs5 _ _ | .bbs6 _ _ | .bbs7 _ _ => true
  | _ => false

/-- A bit instruction exists only when `HAS_BIT_OPS` (R144). -/
def Instr.presentOk (c : Params) (i : Instr) : Bool :=
  !i.isBitOp || c.hasBitOps

/-- An undefined opcode has an undefined opcode byte and the operand bytes of its length under the policy (R143). -/
def Instr.undefOk (c : Params) : Instr → Bool
  | .undef op operand =>
    Machine.undefinedOpcode c op &&
      match operand with
      | .none => Machine.undefOperand c op 0 0 == .none
      | .one b1 => Machine.undefOperand c op b1 0 == .one b1
      | .two b1 b2 => Machine.undefOperand c op b1 b2 == .two b1 b2
  | _ => true

/-- The well-formed instructions of a block with parameters `c`. -/
def Instr.wellFormed (c : Params) (i : Instr) : Bool :=
  i.modeOk && i.presentOk c && i.undefOk c

end Sys2Proof
end

