-- ==== Sys2Proof/Decode.lean ====
section
/-! DEFINITION. The decoder, total on any bytes, transcribed from the opcode map of 30_encoding.md R140 row by row, and
after it the encoder, written from the Encoding line of each instruction's own rule (files 40 to 46). -/

namespace Sys2Proof

/-! ## Bytes and words -/

/-- The 16-bit value `hh:ll` of two bytes, low byte first (20_memory.md R72, 30_encoding.md R131). -/
def wordOf (lo hi : Byte) : Addr := hi ++ lo

/-- Bits 7-0 of a 16-bit value. -/
def lowByte (w : Addr) : Byte := w.extractLsb' 0 8

/-- Bits 15-8 of a 16-bit value. -/
def highByte (w : Addr) : Byte := w.extractLsb' 8 8

/-! ## The opcode map -/

/-- The entry of an undefined opcode in the map; `decodeBytes` meets the opcode before it reads the map. -/
def undefEntry (op : Byte) : Byte → Byte → Instr := fun b1 _ => .undef op (.one b1)

/-- Row $0x of R140: each entry maps the two bytes after the opcode to the instruction. -/
def opcodeRow0 : List (Byte → Byte → Instr) :=
  [fun t _ => .brk t, fun z _ => .ora (.mem (.izx z)), undefEntry 0x02, undefEntry 0x03,
   fun z _ => .tsb (.zp z), fun z _ => .ora (.mem (.zp z)), fun z _ => .asl (.zp z), fun z _ => .rmb0 z,
   fun _ _ => .php, fun n _ => .ora (.imm n), fun _ _ => .asl .acc, undefEntry 0x0B,
   fun l h => .tsb (.abs (wordOf l h)), fun l h => .ora (.mem (.abs (wordOf l h))),
   fun l h => .asl (.abs (wordOf l h)), fun z r => .bbr0 z r]

/-- Row $1x of R140. -/
def opcodeRow1 : List (Byte → Byte → Instr) :=
  [fun r _ => .bpl r, fun z _ => .ora (.mem (.izy z)), fun z _ => .ora (.mem (.izp z)), undefEntry 0x13,
   fun z _ => .trb (.zp z), fun z _ => .ora (.mem (.zpx z)), fun z _ => .asl (.zpx z), fun z _ => .rmb1 z,
   fun _ _ => .clc, fun l h => .ora (.mem (.aby (wordOf l h))), fun _ _ => .inc .acc, undefEntry 0x1B,
   fun l h => .trb (.abs (wordOf l h)), fun l h => .ora (.mem (.abx (wordOf l h))),
   fun l h => .asl (.abx (wordOf l h)), fun z r => .bbr1 z r]

/-- Row $2x of R140. -/
def opcodeRow2 : List (Byte → Byte → Instr) :=
  [fun l h => .jsr (wordOf l h), fun z _ => .and (.mem (.izx z)), undefEntry 0x22, undefEntry 0x23,
   fun z _ => .bit (.mem (.zp z)), fun z _ => .and (.mem (.zp z)), fun z _ => .rol (.zp z), fun z _ => .rmb2 z,
   fun _ _ => .plp, fun n _ => .and (.imm n), fun _ _ => .rol .acc, undefEntry 0x2B,
   fun l h => .bit (.mem (.abs (wordOf l h))), fun l h => .and (.mem (.abs (wordOf l h))),
   fun l h => .rol (.abs (wordOf l h)), fun z r => .bbr2 z r]

/-- Row $3x of R140. -/
def opcodeRow3 : List (Byte → Byte → Instr) :=
  [fun r _ => .bmi r, fun z _ => .and (.mem (.izy z)), fun z _ => .and (.mem (.izp z)), undefEntry 0x33,
   fun z _ => .bit (.mem (.zpx z)), fun z _ => .and (.mem (.zpx z)), fun z _ => .rol (.zpx z), fun z _ => .rmb3 z,
   fun _ _ => .sec, fun l h => .and (.mem (.aby (wordOf l h))), fun _ _ => .dec .acc, undefEntry 0x3B,
   fun l h => .bit (.mem (.abx (wordOf l h))), fun l h => .and (.mem (.abx (wordOf l h))),
   fun l h => .rol (.abx (wordOf l h)), fun z r => .bbr3 z r]

/-- Row $4x of R140. -/
def opcodeRow4 : List (Byte → Byte → Instr) :=
  [fun _ _ => .rti, fun z _ => .eor (.mem (.izx z)), undefEntry 0x42, undefEntry 0x43,
   undefEntry 0x44, fun z _ => .eor (.mem (.zp z)), fun z _ => .lsr (.zp z), fun z _ => .rmb4 z,
   fun _ _ => .pha, fun n _ => .eor (.imm n), fun _ _ => .lsr .acc, undefEntry 0x4B,
   fun l h => .jmp (.abs (wordOf l h)), fun l h => .eor (.mem (.abs (wordOf l h))),
   fun l h => .lsr (.abs (wordOf l h)), fun z r => .bbr4 z r]

/-- Row $5x of R140. -/
def opcodeRow5 : List (Byte → Byte → Instr) :=
  [fun r _ => .bvc r, fun z _ => .eor (.mem (.izy z)), fun z _ => .eor (.mem (.izp z)), undefEntry 0x53,
   undefEntry 0x54, fun z _ => .eor (.mem (.zpx z)), fun z _ => .lsr (.zpx z), fun z _ => .rmb5 z,
   fun _ _ => .cli, fun l h => .eor (.mem (.aby (wordOf l h))), fun _ _ => .phy, undefEntry 0x5B,
   undefEntry 0x5C, fun l h => .eor (.mem (.abx (wordOf l h))),
   fun l h => .lsr (.abx (wordOf l h)), fun z r => .bbr5 z r]

/-- Row $6x of R140. -/
def opcodeRow6 : List (Byte → Byte → Instr) :=
  [fun _ _ => .rts, fun z _ => .adc (.mem (.izx z)), undefEntry 0x62, undefEntry 0x63,
   fun z _ => .stz (.zp z), fun z _ => .adc (.mem (.zp z)), fun z _ => .ror (.zp z), fun z _ => .rmb6 z,
   fun _ _ => .pla, fun n _ => .adc (.imm n), fun _ _ => .ror .acc, undefEntry 0x6B,
   fun l h => .jmp (.ind (wordOf l h)), fun l h => .adc (.mem (.abs (wordOf l h))),
   fun l h => .ror (.abs (wordOf l h)), fun z r => .bbr6 z r]

/-- Row $7x of R140. -/
def opcodeRow7 : List (Byte → Byte → Instr) :=
  [fun r _ => .bvs r, fun z _ => .adc (.mem (.izy z)), fun z _ => .adc (.mem (.izp z)), undefEntry 0x73,
   fun z _ => .stz (.zpx z), fun z _ => .adc (.mem (.zpx z)), fun z _ => .ror (.zpx z), fun z _ => .rmb7 z,
   fun _ _ => .sei, fun l h => .adc (.mem (.aby (wordOf l h))), fun _ _ => .ply, undefEntry 0x7B,
   fun l h => .jmp (.iax (wordOf l h)), fun l h => .adc (.mem (.abx (wordOf l h))),
   fun l h => .ror (.abx (wordOf l h)), fun z r => .bbr7 z r]

/-- Row $8x of R140. -/
def opcodeRow8 : List (Byte → Byte → Instr) :=
  [fun r _ => .bra r, fun z _ => .sta (.izx z), undefEntry 0x82, undefEntry 0x83,
   fun z _ => .sty (.zp z), fun z _ => .sta (.zp z), fun z _ => .stx (.zp z), fun z _ => .smb0 z,
   fun _ _ => .dey, fun n _ => .bit (.imm n), fun _ _ => .txa, undefEntry 0x8B,
   fun l h => .sty (.abs (wordOf l h)), fun l h => .sta (.abs (wordOf l h)),
   fun l h => .stx (.abs (wordOf l h)), fun z r => .bbs0 z r]

/-- Row $9x of R140. -/
def opcodeRow9 : List (Byte → Byte → Instr) :=
  [fun r _ => .bcc r, fun z _ => .sta (.izy z), fun z _ => .sta (.izp z), undefEntry 0x93,
   fun z _ => .sty (.zpx z), fun z _ => .sta (.zpx z), fun z _ => .stx (.zpy z), fun z _ => .smb1 z,
   fun _ _ => .tya, fun l h => .sta (.aby (wordOf l h)), fun _ _ => .txs, undefEntry 0x9B,
   fun l h => .stz (.abs (wordOf l h)), fun l h => .sta (.abx (wordOf l h)),
   fun l h => .stz (.abx (wordOf l h)), fun z r => .bbs1 z r]

/-- Row $Ax of R140. -/
def opcodeRowA : List (Byte → Byte → Instr) :=
  [fun n _ => .ldy (.imm n), fun z _ => .lda (.mem (.izx z)), fun n _ => .ldx (.imm n), undefEntry 0xA3,
   fun z _ => .ldy (.mem (.zp z)), fun z _ => .lda (.mem (.zp z)), fun z _ => .ldx (.mem (.zp z)), fun z _ => .smb2 z,
   fun _ _ => .tay, fun n _ => .lda (.imm n), fun _ _ => .tax, undefEntry 0xAB,
   fun l h => .ldy (.mem (.abs (wordOf l h))), fun l h => .lda (.mem (.abs (wordOf l h))),
   fun l h => .ldx (.mem (.abs (wordOf l h))), fun z r => .bbs2 z r]

/-- Row $Bx of R140. -/
def opcodeRowB : List (Byte → Byte → Instr) :=
  [fun r _ => .bcs r, fun z _ => .lda (.mem (.izy z)), fun z _ => .lda (.mem (.izp z)), undefEntry 0xB3,
   fun z _ => .ldy (.mem (.zpx z)), fun z _ => .lda (.mem (.zpx z)), fun z _ => .ldx (.mem (.zpy z)), fun z _ => .smb3 z,
   fun _ _ => .clv, fun l h => .lda (.mem (.aby (wordOf l h))), fun _ _ => .tsx, undefEntry 0xBB,
   fun l h => .ldy (.mem (.abx (wordOf l h))), fun l h => .lda (.mem (.abx (wordOf l h))),
   fun l h => .ldx (.mem (.aby (wordOf l h))), fun z r => .bbs3 z r]

/-- Row $Cx of R140. -/
def opcodeRowC : List (Byte → Byte → Instr) :=
  [fun n _ => .cpy (.imm n), fun z _ => .cmp (.mem (.izx z)), undefEntry 0xC2, undefEntry 0xC3,
   fun z _ => .cpy (.mem (.zp z)), fun z _ => .cmp (.mem (.zp z)), fun z _ => .dec (.zp z), fun z _ => .smb4 z,
   fun _ _ => .iny, fun n _ => .cmp (.imm n), fun _ _ => .dex, undefEntry 0xCB,
   fun l h => .cpy (.mem (.abs (wordOf l h))), fun l h => .cmp (.mem (.abs (wordOf l h))),
   fun l h => .dec (.abs (wordOf l h)), fun z r => .bbs4 z r]

/-- Row $Dx of R140. -/
def opcodeRowD : List (Byte → Byte → Instr) :=
  [fun r _ => .bne r, fun z _ => .cmp (.mem (.izy z)), fun z _ => .cmp (.mem (.izp z)), undefEntry 0xD3,
   undefEntry 0xD4, fun z _ => .cmp (.mem (.zpx z)), fun z _ => .dec (.zpx z), fun z _ => .smb5 z,
   fun _ _ => .cld, fun l h => .cmp (.mem (.aby (wordOf l h))), fun _ _ => .phx, undefEntry 0xDB,
   undefEntry 0xDC, fun l h => .cmp (.mem (.abx (wordOf l h))),
   fun l h => .dec (.abx (wordOf l h)), fun z r => .bbs5 z r]

/-- Row $Ex of R140. -/
def opcodeRowE : List (Byte → Byte → Instr) :=
  [fun n _ => .cpx (.imm n), fun z _ => .sbc (.mem (.izx z)), undefEntry 0xE2, undefEntry 0xE3,
   fun z _ => .cpx (.mem (.zp z)), fun z _ => .sbc (.mem (.zp z)), fun z _ => .inc (.zp z), fun z _ => .smb6 z,
   fun _ _ => .inx, fun n _ => .sbc (.imm n), fun _ _ => .nop, undefEntry 0xEB,
   fun l h => .cpx (.mem (.abs (wordOf l h))), fun l h => .sbc (.mem (.abs (wordOf l h))),
   fun l h => .inc (.abs (wordOf l h)), fun z r => .bbs6 z r]

/-- Row $Fx of R140. -/
def opcodeRowF : List (Byte → Byte → Instr) :=
  [fun r _ => .beq r, fun z _ => .sbc (.mem (.izy z)), fun z _ => .sbc (.mem (.izp z)), undefEntry 0xF3,
   undefEntry 0xF4, fun z _ => .sbc (.mem (.zpx z)), fun z _ => .inc (.zpx z), fun z _ => .smb7 z,
   fun _ _ => .sed, fun l h => .sbc (.mem (.aby (wordOf l h))), fun _ _ => .plx, undefEntry 0xFB,
   undefEntry 0xFC, fun l h => .sbc (.mem (.abx (wordOf l h))),
   fun l h => .inc (.abx (wordOf l h)), fun z r => .bbs7 z r]

/-- The opcode map, row by row: "row = high nibble, column = low nibble" (R140). -/
def opcodeRows : List (List (Byte → Byte → Instr)) :=
  [opcodeRow0, opcodeRow1, opcodeRow2, opcodeRow3, opcodeRow4, opcodeRow5, opcodeRow6, opcodeRow7]
    ++ [opcodeRow8, opcodeRow9, opcodeRowA, opcodeRowB, opcodeRowC, opcodeRowD, opcodeRowE, opcodeRowF]

/-! ## The decoder -/

/-- The instruction of an opcode byte and the two bytes that follow it, those it does not use ignored: "The opcode byte
alone selects the instruction, its addressing mode and its length" (R130). -/
def decodeBytes (c : Params) (op b1 b2 : Byte) : Instr :=
  if Machine.undefinedOpcode c op then .undef op (Machine.undefOperand c op b1 b2)
  else ((opcodeRows.getD (op.toNat / 16) []).getD (op.toNat % 16) (undefEntry op)) b1 b2

/-! ## The encoder -/

/-- The opcodes of the seven instructions with nine modes, in the order izx zp imm abs izy izp zpx aby abx. -/
def aluOpcode (izx zp imm abs izy izp zpx aby abx : Byte) : Src → Option Byte
  | .imm _        => some imm
  | .mem (.zp _)  => some zp
  | .mem (.zpx _) => some zpx
  | .mem (.zpy _) => none
  | .mem (.abs _) => some abs
  | .mem (.abx _) => some abx
  | .mem (.aby _) => some aby
  | .mem (.izx _) => some izx
  | .mem (.izy _) => some izy
  | .mem (.izp _) => some izp

/-- The opcodes of a read-modify-write instruction, in the order acc zp zpx abs abx. -/
def rmwOpcode (acc zp zpx abs abx : Byte) : RmwMode → Byte
  | .acc   => acc
  | .zp _  => zp
  | .zpx _ => zpx
  | .abs _ => abs
  | .abx _ => abx

/-- The opcodes of LDY and BIT, in the order imm zp zpx abs abx. -/
def ldyOpcode (imm zp zpx abs abx : Byte) : Src → Option Byte
  | .imm _        => some imm
  | .mem (.zp _)  => some zp
  | .mem (.zpx _) => some zpx
  | .mem (.abs _) => some abs
  | .mem (.abx _) => some abx
  | _             => none

/-- The opcodes of CPX and CPY, in the order imm zp abs. -/
def cpxOpcode (imm zp abs : Byte) : Src → Option Byte
  | .imm _        => some imm
  | .mem (.zp _)  => some zp
  | .mem (.abs _) => some abs
  | _             => none

/-- The opcodes of LDX (R201). -/
def ldxOpcode : Src → Option Byte
  | .imm _        => some 0xA2
  | .mem (.zp _)  => some 0xA6
  | .mem (.zpy _) => some 0xB6
  | .mem (.abs _) => some 0xAE
  | .mem (.aby _) => some 0xBE
  | _             => none

/-- The opcodes of STA (R203). -/
def staOpcode : MemMode → Option Byte
  | .zp _  => some 0x85
  | .zpx _ => some 0x95
  | .zpy _ => none
  | .abs _ => some 0x8D
  | .abx _ => some 0x9D
  | .aby _ => some 0x99
  | .izx _ => some 0x81
  | .izy _ => some 0x91
  | .izp _ => some 0x92

/-- The opcodes of STX (R204). -/
def stxOpcode : MemMode → Option Byte
  | .zp _  => some 0x86
  | .zpy _ => some 0x96
  | .abs _ => some 0x8E
  | _      => none

/-- The opcodes of STY (R205). -/
def styOpcode : MemMode → Option Byte
  | .zp _  => some 0x84
  | .zpx _ => some 0x94
  | .abs _ => some 0x8C
  | _      => none

/-- The opcodes of STZ (R206). -/
def stzOpcode : MemMode → Option Byte
  | .zp _  => some 0x64
  | .zpx _ => some 0x74
  | .abs _ => some 0x9C
  | .abx _ => some 0x9E
  | _      => none

/-- The opcodes of TSB and TRB, in the order zp abs. -/
def testOpcode (zp abs : Byte) : TestMode → Byte
  | .zp _  => zp
  | .abs _ => abs

/-- The opcodes of JMP (R350). -/
def jmpOpcode : JmpMode → Byte
  | .abs _ => 0x4C
  | .ind _ => 0x6C
  | .iax _ => 0x7C

/-- The opcode byte of an instruction, from the Encoding line of its rule; `none` for a mode the instruction lacks. -/
def opcodeOf : Instr → Option Byte
  | .lda m => aluOpcode 0xA1 0xA5 0xA9 0xAD 0xB1 0xB2 0xB5 0xB9 0xBD m
  | .ldx m => ldxOpcode m
  | .ldy m => ldyOpcode 0xA0 0xA4 0xB4 0xAC 0xBC m
  | .sta m => staOpcode m
  | .stx m => stxOpcode m
  | .sty m => styOpcode m
  | .stz m => stzOpcode m
  | .tax => some 0xAA
  | .tay => some 0xA8
  | .txa => some 0x8A
  | .tya => some 0x98
  | .tsx => some 0xBA
  | .txs => some 0x9A
  | .pha => some 0x48
  | .php => some 0x08
  | .phx => some 0xDA
  | .phy => some 0x5A
  | .pla => some 0x68
  | .plp => some 0x28
  | .plx => some 0xFA
  | .ply => some 0x7A
  | .adc m => aluOpcode 0x61 0x65 0x69 0x6D 0x71 0x72 0x75 0x79 0x7D m
  | .sbc m => aluOpcode 0xE1 0xE5 0xE9 0xED 0xF1 0xF2 0xF5 0xF9 0xFD m
  | .cmp m => aluOpcode 0xC1 0xC5 0xC9 0xCD 0xD1 0xD2 0xD5 0xD9 0xDD m
  | .cpx m => cpxOpcode 0xE0 0xE4 0xEC m
  | .cpy m => cpxOpcode 0xC0 0xC4 0xCC m
  | .inc m => some (rmwOpcode 0x1A 0xE6 0xF6 0xEE 0xFE m)
  | .dec m => some (rmwOpcode 0x3A 0xC6 0xD6 0xCE 0xDE m)
  | .inx => some 0xE8
  | .iny => some 0xC8
  | .dex => some 0xCA
  | .dey => some 0x88
  | .and m => aluOpcode 0x21 0x25 0x29 0x2D 0x31 0x32 0x35 0x39 0x3D m
  | .ora m => aluOpcode 0x01 0x05 0x09 0x0D 0x11 0x12 0x15 0x19 0x1D m
  | .eor m => aluOpcode 0x41 0x45 0x49 0x4D 0x51 0x52 0x55 0x59 0x5D m
  | .bit m => ldyOpcode 0x89 0x24 0x34 0x2C 0x3C m
  | .tsb m => some (testOpcode 0x04 0x0C m)
  | .trb m => some (testOpcode 0x14 0x1C m)
  | .asl m => some (rmwOpcode 0x0A 0x06 0x16 0x0E 0x1E m)
  | .lsr m => some (rmwOpcode 0x4A 0x46 0x56 0x4E 0x5E m)
  | .rol m => some (rmwOpcode 0x2A 0x26 0x36 0x2E 0x3E m)
  | .ror m => some (rmwOpcode 0x6A 0x66 0x76 0x6E 0x7E m)
  | .rmb0 _ => some 0x07
  | .rmb1 _ => some 0x17
  | .rmb2 _ => some 0x27
  | .rmb3 _ => some 0x37
  | .rmb4 _ => some 0x47
  | .rmb5 _ => some 0x57
  | .rmb6 _ => some 0x67
  | .rmb7 _ => some 0x77
  | .smb0 _ => some 0x87
  | .smb1 _ => some 0x97
  | .smb2 _ => some 0xA7
  | .smb3 _ => some 0xB7
  | .smb4 _ => some 0xC7
  | .smb5 _ => some 0xD7
  | .smb6 _ => some 0xE7
  | .smb7 _ => some 0xF7
  | .bbr0 _ _ => some 0x0F
  | .bbr1 _ _ => some 0x1F
  | .bbr2 _ _ => some 0x2F
  | .bbr3 _ _ => some 0x3F
  | .bbr4 _ _ => some 0x4F
  | .bbr5 _ _ => some 0x5F
  | .bbr6 _ _ => some 0x6F
  | .bbr7 _ _ => some 0x7F
  | .bbs0 _ _ => some 0x8F
  | .bbs1 _ _ => some 0x9F
  | .bbs2 _ _ => some 0xAF
  | .bbs3 _ _ => some 0xBF
  | .bbs4 _ _ => some 0xCF
  | .bbs5 _ _ => some 0xDF
  | .bbs6 _ _ => some 0xEF
  | .bbs7 _ _ => some 0xFF
  | .bpl _ => some 0x10
  | .bmi _ => some 0x30
  | .bvc _ => some 0x50
  | .bvs _ => some 0x70
  | .bcc _ => some 0x90
  | .bcs _ => some 0xB0
  | .bne _ => some 0xD0
  | .beq _ => some 0xF0
  | .bra _ => some 0x80
  | .jmp m => some (jmpOpcode m)
  | .jsr _ => some 0x20
  | .rts => some 0x60
  | .rti => some 0x40
  | .brk _ => some 0x00
  | .clc => some 0x18
  | .sec => some 0x38
  | .cli => some 0x58
  | .sei => some 0x78
  | .cld => some 0xD8
  | .sed => some 0xF8
  | .clv => some 0xB8
  | .nop => some 0xEA
  | .undef op _ => some op

/-- A 16-bit operand as the bytes `ll hh` (R131). -/
def wordBytes (w : Addr) : List Byte := [lowByte w, highByte w]

/-- The operand bytes of a memory mode (R131). -/
def MemMode.bytes : MemMode → List Byte
  | .zp z | .zpx z | .zpy z | .izx z | .izy z | .izp z => [z]
  | .abs w | .abx w | .aby w => wordBytes w

/-- The operand bytes of a source (R131). -/
def Src.bytes : Src → List Byte
  | .imm n => [n]
  | .mem m => m.bytes

/-- The operand bytes of a read-modify-write target (R131). -/
def RmwMode.bytes : RmwMode → List Byte
  | .acc => []
  | .zp z | .zpx z => [z]
  | .abs w | .abx w => wordBytes w

/-- The operand bytes of a TSB or TRB target (R131). -/
def TestMode.bytes : TestMode → List Byte
  | .zp z => [z]
  | .abs w => wordBytes w

/-- The operand bytes of a JMP (R131). -/
def JmpMode.bytes : JmpMode → List Byte
  | .abs w | .ind w | .iax w => wordBytes w

/-- The operand bytes of an undefined opcode (R143). -/
def UndefOperand.bytes : UndefOperand → List Byte
  | .none => []
  | .one b1 => [b1]
  | .two b1 b2 => [b1, b2]

/-- The operand bytes of an instruction, after its opcode byte (R131). -/
def operandBytes : Instr → List Byte
  | .lda m | .ldx m | .ldy m | .adc m | .sbc m | .cmp m | .cpx m | .cpy m | .and m | .ora m | .eor m | .bit m => m.bytes
  | .sta m | .stx m | .sty m | .stz m => m.bytes
  | .inc m | .dec m | .asl m | .lsr m | .rol m | .ror m => m.bytes
  | .tsb m | .trb m => m.bytes
  | .rmb0 z | .rmb1 z | .rmb2 z | .rmb3 z | .rmb4 z | .rmb5 z | .rmb6 z | .rmb7 z => [z]
  | .smb0 z | .smb1 z | .smb2 z | .smb3 z | .smb4 z | .smb5 z | .smb6 z | .smb7 z => [z]
  | .bbr0 z r | .bbr1 z r | .bbr2 z r | .bbr3 z r | .bbr4 z r | .bbr5 z r | .bbr6 z r | .bbr7 z r => [z, r]
  | .bbs0 z r | .bbs1 z r | .bbs2 z r | .bbs3 z r | .bbs4 z r | .bbs5 z r | .bbs6 z r | .bbs7 z r => [z, r]
  | .bpl r | .bmi r | .bvc r | .bvs r | .bcc r | .bcs r | .bne r | .beq r | .bra r => [r]
  | .jmp m => m.bytes
  | .jsr w => wordBytes w
  | .brk t => [t]
  | .undef _ operand => operand.bytes
  | .tax | .tay | .txa | .tya | .tsx | .txs | .pha | .php | .phx | .phy | .pla | .plp | .plx | .ply
  | .inx | .iny | .dex | .dey | .rts | .rti | .clc | .sec | .cli | .sei | .cld | .sed | .clv | .nop => []

/-- The bytes of an instruction, opcode first; none for a term with no opcode (an ill-formed one). -/
def encode (i : Instr) : List Byte :=
  match opcodeOf i with
  | some op => op :: operandBytes i
  | none => []

/-! ## Decoding a byte list -/

/-- The length of the instruction an opcode byte begins: "A decoder finds the length from the opcode alone" (R131, R143). -/
def opcodeLength (c : Params) (op : Byte) : Nat :=
  1 + (operandBytes (decodeBytes c op 0 0)).length

/-- Why a byte list does not begin with an instruction: it ends too early. No opcode byte is rejected ("No encoding
traps, faults or halts the CPU", R143). -/
inductive DecodeError where
  /-- no opcode byte -/
  | noOpcode
  /-- the byte list ends inside the instruction -/
  | truncated
  deriving DecidableEq, Repr

/-- What decoding a byte list gives: the first instruction and the bytes after it, or a rejection by name. -/
inductive DecodeResult where
  | decoded (i : Instr) (rest : List Byte)
  | rejected (e : DecodeError)
  deriving DecidableEq, Repr

/-- Decode the first instruction of a byte list. -/
def decode (c : Params) : List Byte → DecodeResult
  | [] => .rejected .noOpcode
  | op :: tail =>
    if tail.length + 1 < opcodeLength c op then .rejected .truncated
    else .decoded (decodeBytes c op (tail.getD 0 0) (tail.getD 1 0)) (tail.drop (opcodeLength c op - 1))

/-- Byte `k` of a number, byte 0 its least significant. -/
def byteOfNat (w k : Nat) : Byte := BitVec.ofNat 8 (w / 256 ^ k)

/-- The bytes of an instruction whose bits are `w`, numbered as spec/opcode_table.json numbers them, with zeros above
`nbits` up to the longest instruction (three bytes). -/
def tableBytes (nbits w : Nat) : List Byte :=
  [byteOfNat (w % 2 ^ nbits) 0, byteOfNat (w % 2 ^ nbits) 1, byteOfNat (w % 2 ^ nbits) 2]

/-- What the decoder of the standard parameters reads from an instruction whose bits are `w`. -/
def decodeTableWord (nbits w : Nat) : Option Instr :=
  match decode .standard (tableBytes nbits w) with
  | .decoded i _ => some i
  | .rejected _ => none

end Sys2Proof
end

