-- ==== Sys2Proof/Machine/Memory.lean ====
section
/-! DEFINITION. Sparse byte memories in one canonical form (addresses strictly rising, no entry equal to 0, the value an
unlisted address reads as), and the host's byte images. -/

namespace Sys2Proof.Machine

/-- A byte memory: the (address, byte) pairs that differ from 0, addresses rising. -/
abbrev Memory := List Host.Cell

/-- What an address no cell lists reads as: "a byte never written since a cold reset reads 0" (20_memory.md R81). -/
def Memory.unlisted : Byte := 0#8

/-- The byte at an address. -/
def Memory.read : Memory → Nat → Byte
  | [], _ => Memory.unlisted
  | (b, v) :: rest, a => if a = b then v else Memory.read rest a

/-- The memory with the byte at an address replaced, in canonical form. -/
def Memory.write : Memory → Nat → Byte → Memory
  | [], a, v => if v = Memory.unlisted then [] else [(a, v)]
  | (b, w) :: rest, a, v =>
    if a < b then (if v = Memory.unlisted then (b, w) :: rest else (a, v) :: (b, w) :: rest)
    else if a = b then (if v = Memory.unlisted then rest else (a, v) :: rest)
    else (b, w) :: Memory.write rest a v

/-- Canonical from a lowest address on: addresses strictly rising, no entry equal to what an unlisted address reads as. -/
def Memory.wfFrom : Nat → Memory → Bool
  | _, [] => true
  | lo, (a, v) :: rest => decide (lo ≤ a) && decide (v ≠ Memory.unlisted) && Memory.wfFrom (a + 1) rest

/-- The canonical form. -/
def Memory.wf (m : Memory) : Bool := Memory.wfFrom 0 m

/-- Every listed address lies below a bound. -/
def Memory.below (bound : Nat) (m : Memory) : Bool := m.all fun c => decide (c.1 < bound)

/-! ## Host images -/

/-- A byte of the main ROM image, by its offset from $C000 (20_memory.md R80). -/
def romByte (c : Params) (offset : Nat) : Byte :=
  match c.rom with
  | .host => Config.romByte offset
  | .cells l => Memory.read l offset

/-- `CARD_ROM(addr)`: the byte a slot card supplies, else the default `ROM[addr - $C000]` (20_memory.md R83). -/
def cardRomByte (c : Params) (addr : Nat) : Byte :=
  if c.cardRom.any (fun cell => decide (cell.1 = addr)) then Memory.read c.cardRom addr else romByte c (addr - 0xC000)

/-- `LSS_ROM[idx]` (64_disk_lss.md R606). -/
def lssRomByte (c : Params) (idx : Nat) : Byte :=
  match c.lssRom with
  | .host => Config.lssRomByte idx
  | .cells l => Memory.read l idx

/-- `CHAR_ROM(bank, code, l)`: pixel `g_i` in bit `i` (62_video.md R506). In a written-out image bank 1 is the second
4 KiB half (R540); the place of a line within its half is the model's (notes/assumptions/3.md). -/
def charGlyph (c : Params) (bank : Bool) (code : Byte) (l : Nat) : Byte :=
  match c.charRom with
  | .host => Config.charRomGlyph bank code l
  | .cells cs => Memory.read cs (bank.toNat * 4096 + code.toNat * 8 + l)

/-- `DHGR_LUT(phase, value)` (62_video.md R520). -/
def dhgrColour (c : Params) (phase value : Nat) : BitVec 4 :=
  match c.dhgrLut with
  | .host => Config.dhgrColour phase value
  | .cells l => (Memory.read l (phase * 16 + value)).extractLsb' 0 4

/-- The reset vector, read from the main ROM without side effect: `ROM[$3FFC] | ROM[$3FFD] << 8` (70_reset_and_hazards.md R702). -/
def resetVector (c : Params) : Addr := romByte c 0x3FFD ++ romByte c 0x3FFC

end Sys2Proof.Machine
end

