-- ==== Sys2Proof/Machine/State.lean ====
section
/-! DEFINITION. The state of the block as plain data (10_state.md), why a step can stop, the state at creation, and the
state after reset (70_reset_and_hazards.md R700, R705). -/

namespace Sys2Proof.Machine

/-! ## Why a step or a host action stops -/

/-- Faults: none. "No instruction raises a synchronous exception" and the machine never stops on guest behaviour
(60_exceptions.md R400, 93_implementation_defined.md Part 1), so no meaning can answer a fault. -/
inductive Fault where
  deriving DecidableEq, Repr

/-- Refusals. No step answers one: the first is for an instruction without a meaning (there is none), the others are
answered by the host actions of `Machine/HostActions.lean` only. -/
inductive Refusal where
  /-- Raised by an arm of `exec` that has no meaning yet. Safe. -/
  | notModelled (mnemonic : String)
  /-- Raised by `create` for parameters 93_implementation_defined.md section 1.3 lets a model refuse. Safe. -/
  | badParameters
  /-- Raised by `mount` for media outside 64_disk_lss.md R601 (a track over 53 248 bits, a table of another length). Safe. -/
  | badMedium
  /-- Raised by `mount` with RESET for a `qtrack` above 140 ("a host restore with `qtrack > 140`: refuse",
  93_implementation_defined.md section 1.3; 90_conflicts.md C14). Safe. -/
  | badHeadPosition
  /-- Raised by `keypress` for a code the host interface gives no meaning ($80-$FF but $FB, 60_exceptions.md R440). Safe. -/
  | badKeyCode
  /-- Raised by `timer_set` for an id no timer has. Safe. -/
  | noSuchTimer
  /-- Raised by `run_cycles` when its loop has not ended within the iterations the claim looks at; more of them carry the
  same run further (61_timers.md R452, notes/assumptions/19.md). Safe. -/
  | runUnfinished
  deriving DecidableEq, Repr

/-! ## The processor status -/

/-- The six stored flags of P (10_state.md R35). Bits 5 and 4 are not stored. -/
structure Flags where
  /-- bit 7, negative -/
  n : Bool
  /-- bit 6, overflow -/
  v : Bool
  /-- bit 3, decimal mode -/
  d : Bool
  /-- bit 2, IRQ disable -/
  i : Bool
  /-- bit 1, zero -/
  z : Bool
  /-- bit 0, carry -/
  c : Bool
  deriving DecidableEq, Repr, Inhabited

/-! ## Bus and soft-switches -/

/-- The two DRAM banks of $0000-$BFFF (10_state.md R45). -/
inductive Bank where
  | main
  | aux
  deriving DecidableEq, Repr, Inhabited

/-- `sw`, the soft-switches (10_state.md R48). `ramrd`, `ramwrt` and `altzp` are bank selectors outside the block: no
rule of it writes them, and only a host-supplied `BANK_SEL` reads them. -/
structure SoftSwitches where
  text       : Bool
  mixed      : Bool
  page2      : Bool
  hires      : Bool
  col80      : Bool
  store80    : Bool
  altCharset : Bool
  dhires     : Bool
  an3        : Bool
  vbl        : Bool
  an3Mode    : BitVec 2
  ramrd      : Bool
  ramwrt     : Bool
  altzp      : Bool
  deriving DecidableEq, Repr, Inhabited

/-! ## Timer wheel -/

/-- A timer's callback: the VBL callback of the block, or a callback the host registered, by its number. -/
inductive TimerCallback where
  | vbl
  | host (id : Nat)
  deriving DecidableEq, Repr, Inhabited

/-- An entry of the timer wheel (10_state.md R49). `remaining` is a signed 64-bit number. -/
structure Timer where
  remaining : BitVec 64
  callback  : TimerCallback
  name      : String
  deriving DecidableEq, Repr, Inhabited

/-! ## Video -/

/-- `vbl_phase` (10_state.md R50). -/
inductive VblPhase where
  | visible
  | blanking
  deriving DecidableEq, Repr, Inhabited

/-- A framebuffer pixel: palette index and `dim` (62_video.md R500). -/
structure Pixel where
  index : BitVec 4
  dim   : Bool
  deriving DecidableEq, Repr, Inhabited

/-- Video state (10_state.md R50). `colorMode` has no behaviour in the spec; the two dirty flags change no output (62_video.md R502). -/
structure Video where
  line           : Nat
  frameCount     : BitVec 32
  vblPhase       : VblPhase
  frameDirty     : Bool
  blinkTextDirty : Bool
  colorMode      : Byte
  monochrome     : Bool
  paletteIndex   : Nat
  romBank        : Bool
  clut           : List (Byte × Byte × Byte)
  clutLow        : List (Byte × Byte × Byte)
  fb             : List (List Pixel)
  deriving DecidableEq, Repr, Inhabited

/-! ## Audio -/

/-- Audio state (10_state.md R51). A contribution is an 8.8 fixed-point number written as an integer, −256 to +256. The
read position in the secondary stream is the model's own (notes/assumptions/24.md). -/
structure Audio where
  ring           : List Int
  write          : Nat
  read           : Nat
  currentSample  : Nat
  speaker        : Int
  last           : Int
  secondaryIndex : Nat
  deriving DecidableEq, Repr, Inhabited

/-! ## Disk II -/

/-- What a quarter-track maps to: a physical track 0..34, or `NOISE` (10_state.md R53). -/
inductive TrackRef where
  | noise
  | track (n : Fin 35)
  deriving DecidableEq, Repr, Inhabited

/-- A track: its length in bits, its bytes (6 656 of them, MSB first), and whether it was written (10_state.md R53). -/
structure Track where
  bitCount : Nat
  bits     : Memory
  dirty    : Bool
  deriving DecidableEq, Repr, Inhabited

/-- A mounted medium: `track_id[0..159]` and `tracks[0..34]` (10_state.md R53). -/
structure Medium where
  trackId : List TrackRef
  tracks  : List Track
  deriving DecidableEq, Repr, Inhabited

/-- A drive (10_state.md R53). `currTrack` is `curr_track_data`. `headPosition` holds `bit_position` as mounts keep or set it
(64_disk_lss.md R640); `bit_position` in R53's range is `Drive.bitPosition`, read from it. -/
structure Drive where
  medium         : Option Medium
  currTrack      : Memory
  motor          : Bool
  stepper        : Byte
  qtrack         : Nat
  headPosition   : Nat
  writeProtected : Bool
  deriving DecidableEq, Repr, Inhabited

/-- The Disk II controller and its two drives (10_state.md R52). `phase` has no behaviour. -/
structure Disk where
  clock         : Nat
  head          : Bool
  lssState      : BitVec 4
  q6            : Bool
  q7            : Bool
  dataRegister  : Byte
  writeRegister : Byte
  motor         : Bool
  phase         : Byte
  selected      : Fin 2
  rp            : Bool
  drive0        : Drive
  drive1        : Drive
  deriving DecidableEq, Repr, Inhabited

/-! ## The state -/

/-- The whole state of the block. -/
structure State where
  /-- A, the accumulator (R31). -/
  a              : Byte
  /-- X (R32). -/
  x              : Byte
  /-- Y (R32). -/
  y              : Byte
  /-- S, the stack pointer (R33). -/
  sp             : Byte
  /-- PC (R34). -/
  pc             : Addr
  /-- The stored flags of P (R35). -/
  p              : Flags
  /-- `total_cycle` (R38). -/
  totalCycle     : BitVec 64
  /-- `cycle` (R39). -/
  cycle          : BitVec 32
  /-- `instruction_run` (R40). -/
  instructionRun : Nat
  /-- `irq_line` (R41). -/
  irqLine        : Bool
  /-- `nmi_pending` (R41). -/
  nmiPending     : Bool
  /-- `speed` (R42). -/
  speed          : Speed
  /-- `trap_table` (R43): the registered indices, rising, each with the number of the host's callback. -/
  trapTable      : List (Byte × Nat)
  /-- `fault_log` (R44), oldest first. -/
  faultLog       : List (Addr × Byte)
  /-- `ram_main` (R45). -/
  ramMain        : Memory
  /-- `ram_aux` (R45). -/
  ramAux         : Memory
  /-- `kbd_latch` (R47). -/
  kbdLatch       : Byte
  /-- `sw` and `an3_mode` (R48). -/
  sw             : SoftSwitches
  /-- `timers` (R49), in registration order. -/
  timers         : List Timer
  /-- Video state (R50). -/
  video          : Video
  /-- Audio state (R51). -/
  audio          : Audio
  /-- Disk II state (R52, R53). -/
  disk           : Disk
  /-- The model's own: how many draws the run has made; each free value is an opaque constant applied to it
  (notes/assumptions/1.md). -/
  draws          : Nat
  /-- The parameters (00_scope.md R8), which nothing changes. -/
  cfg            : Params
  deriving DecidableEq, Repr

/-! ## Creation and reset -/

/-- Every switch 0 (R48). -/
def SoftSwitches.create : SoftSwitches where
  text := false
  mixed := false
  page2 := false
  hires := false
  col80 := false
  store80 := false
  altCharset := false
  dhires := false
  an3 := false
  vbl := false
  an3Mode := 0#2
  ramrd := false
  ramwrt := false
  altzp := false

/-- The framebuffer with every pixel `(0, 0)` (70_reset_and_hazards.md R700): 240 rows of 320 columns. -/
def blackFrame : List (List Pixel) := List.replicate 240 (List.replicate 320 ⟨0#4, false⟩)

/-- A colour table at creation: 16 entries of 0. That ruling D12's "0/empty" means this for a 16-entry table (10_state.md
R50) is DEDUCED (notes/assumptions/34.md). -/
def blackClut : List (Byte × Byte × Byte) := List.replicate 16 (0#8, 0#8, 0#8)

/-- Video state at creation: visible, `fb` black, options host-given, everything else 0 (R700, ruling D12). -/
def Video.create (c : Params) : Video where
  line := 0
  frameCount := 0#32
  vblPhase := .visible
  frameDirty := false
  blinkTextDirty := false
  colorMode := 0#8
  monochrome := c.monochrome
  paletteIndex := c.paletteIndex
  romBank := c.romBank
  clut := blackClut
  clutLow := blackClut
  fb := blackFrame

/-- Audio state at creation: all 0 but `speaker = −256` (R700). -/
def Audio.create (c : Params) : Audio where
  ring := List.replicate c.ringN 0
  write := 0
  read := 0
  currentSample := 0
  speaker := -256
  last := 0
  secondaryIndex := 0

/-- A drive at creation: no medium, everything 0 (R700). -/
def Drive.create : Drive where
  medium := none
  currTrack := []
  motor := false
  stepper := 0#8
  qtrack := 0
  headPosition := 0
  writeProtected := false

/-- The disk controller at creation: all fields 0 (R700). -/
def Disk.create : Disk where
  clock := 0
  head := false
  lssState := 0#4
  q6 := false
  q7 := false
  dataRegister := 0#8
  writeRegister := 0#8
  motor := false
  phase := 0#8
  selected := 0
  rp := false
  drive0 := Drive.create
  drive1 := Drive.create

/-- The flags after reset: I = 1, the others 0 (R700). -/
def Flags.reset : Flags where
  n := false
  v := false
  d := false
  i := true
  z := false
  c := false

/-- The VBL timer as the video renderer registers it at creation (61_timers.md R460). The spec gives every entry a name
and this one no value: "VBL" is the model's, DESIGN CHOICE (notes/assumptions/30.md); no rule reads it. -/
def vblTimer : Timer where
  remaining := BitVec.ofNat 64 Config.vblVisible
  callback := .vbl
  name := "VBL"

/-- The creation column of 70_reset_and_hazards.md R700 for the host's parameters (R705). -/
def State.created (c : Params) : State where
  a := 0#8
  x := 0#8
  y := 0#8
  sp := 0#8
  pc := resetVector c
  p := Flags.reset
  totalCycle := 0#64
  cycle := 0#32
  instructionRun := 0
  irqLine := false
  nmiPending := false
  speed := c.speed
  trapTable := []
  faultLog := []
  ramMain := []
  ramAux := []
  kbdLatch := 0#8
  sw := SoftSwitches.create
  timers := [vblTimer]
  video := Video.create c
  audio := Audio.create c
  disk := Disk.create
  draws := 0
  cfg := c

/-- The machine right after `create` and `reset(cold = true)` with the standard parameters: the two columns of R700
agree there, so this is the creation state. -/
def State.reset : State := State.created Params.standard

end Sys2Proof.Machine
end

