-- ==== Sys2Proof/Machine/HostParams.lean ====
section
/-! DEFINITION. The host's functions, as opaque constants with no body: what a registered callback does, and the
function-valued parameters of 00_scope.md R8 where the host supplies its own. -/

namespace Sys2Proof

/-- The values a RESET mount gives a drive (64_disk_lss.md R640); the bit position is one of the longest track's (R601). -/
structure Machine.HeadPlacement where
  motor       : Bool
  stepper     : Byte
  qtrack      : Nat
  bitPosition : Fin 53248
  deriving DecidableEq, Repr, Inhabited

/-- How a mount treats the drive's motor, stepper, qtrack and bit position: PRESERVE, or RESET to given values (R640). -/
inductive Machine.MountMode where
  | preserve
  | reset (h : Machine.HeadPlacement)
  deriving DecidableEq, Repr, Inhabited

/-- A change of media: mount or eject (R640). -/
inductive Machine.MediaAction where
  | mount (drive : Fin 2) (medium : Machine.Medium) (writeProtected : Bool) (mode : Machine.MountMode)
  | eject (drive : Fin 2)
  deriving DecidableEq, Repr, Inhabited

/-- Everything a trap callback may change (60_exceptions.md R406): the registers, RAM bytes of either bank, the
interrupt requests, `instruction_run` and the mounted media. That a mount among them may be a RESET mount, which sets the
drive's motor and head as well, is the model's choice (notes/assumptions/15.md). -/
structure Machine.TrapEffect where
  a              : Byte
  x              : Byte
  y              : Byte
  sp             : Byte
  pc             : Addr
  p              : Machine.Flags
  ramWrites      : List (Machine.Bank × Addr × Byte)
  irqLine        : Bool
  nmiPending     : Bool
  instructionRun : Nat
  media          : List Machine.MediaAction
  deriving DecidableEq, Repr, Inhabited

/-- What a host timer callback does: the value that replaces `remaining`, whether it sets `instruction_run` to 0
(61_timers.md R456), the level it leaves on `irq_line`, and whether it requests an NMI. -/
structure Machine.TimerEffect where
  remaining  : BitVec 64
  preempt    : Bool
  irqLine    : Bool
  raiseNmi   : Bool
  deriving DecidableEq, Repr, Inhabited

/-- What the host's trap callback does: callback number, draw number, and the state it sees. -/
opaque Config.trapCallback : Nat → Nat → Machine.State → Machine.TrapEffect
/-- What the host's timer callback does: callback number, draw number, and the state it sees. -/
opaque Config.timerCallback : Nat → Nat → Machine.State → Machine.TimerEffect
/-- A host-supplied `BANK_SEL(addr, is_write, sw)`. -/
opaque Config.bankSelect : Addr → Bool → Machine.SoftSwitches → Machine.Bank
/-- A host-supplied `AN3_MODE_UPDATE(an3_mode, sw)`. -/
opaque Config.an3ModeUpdate : BitVec 2 → Machine.SoftSwitches → BitVec 2
/-- A host-supplied `STEPPER_RULE`: phase bits after the change, phase changed, old quarter-track; the new quarter-track. -/
opaque Config.stepperTarget : Byte → Nat → Nat → Nat

end Sys2Proof
end

