-- ==== Sys2Proof/Machine/Audio.lean ====
section
/-! DEFINITION. The audio mixer (63_audio.md). -/

namespace Sys2Proof.Machine

/-- `SAMPLE_RATE` as a number. -/
def sampleRateHz : SampleRate → Nat
  | .r22050 => 22050
  | .r44100 => 44100

/-- `sp`, the samples-per-cycle constant: `(SAMPLE_RATE << 16) div 1 020 484` (R560). -/
def samplesPerCycle (c : Params) : Nat := sampleRateHz c.sampleRate * 65536 / Config.cpuHz

/-- `pos(c)`, the sample position of a cycle (R561). -/
def samplePos (c : Params) (cyc : Nat) : Nat := cyc * samplesPerCycle c / 65536

/-- One ring entry of a click: store the speaker value, advance `write`, and on overrun drop the oldest sample (R563). -/
def Audio.push (c : Params) (au : Audio) : Audio :=
  let w := (au.write + 1) % c.ringN
  { au with
    ring  := au.ring.set au.write au.speaker
    write := w
    read  := if w = au.read then (au.read + 1) % c.ringN else au.read }

/-- `n` ring entries. -/
def Audio.pushes (c : Params) : Nat → Audio → Audio
  | 0, au => au
  | n + 1, au => Audio.pushes c n (au.push c)

/-- `speaker_click(c)` (R563). -/
def Audio.click (c : Params) (cyc : Nat) (au : Audio) : Audio :=
  if samplePos c cyc ≤ au.currentSample then { au with speaker := -au.speaker }
  else if samplePos c cyc - au.currentSample ≥ c.sampleBufferOffset then
    { au with
      write := (au.read + c.sampleBufferOffset) % c.ringN
      currentSample := samplePos c cyc
      speaker := -au.speaker }
  else
    { Audio.pushes c (samplePos c cyc - au.currentSample) au with
      currentSample := samplePos c cyc
      speaker := -au.speaker }

/-- Clamp to a signed 16-bit sample (R570). -/
def clamp16 (v : Int) : Int := max (-32768) (min v 32767)

/-- `v * VOLUME`, rounded toward zero (R570). -/
def scaleVolume (c : Params) (v : Int) : Int := (v * c.volumeNum).tdiv c.volumeDen

/-- The contribution the next drained sample plays, and the mixer after taking it (R570). -/
def Audio.take (c : Params) (au : Audio) : Int × Audio :=
  if au.write ≠ au.read then
    (au.ring.getD au.read 0,
     { au with
       ring := au.ring.set au.read 0
       read := (au.read + 1) % c.ringN
       last := au.ring.getD au.read 0 })
  else (au.last, au)

/-- The next pair of the secondary source, `(0, 0)` when it is not enabled (R570, R578). -/
def Audio.secondary (c : Params) (au : Audio) : (Int × Int) × Audio :=
  if c.secondaryEnabled then
    (((Config.secondarySample au.secondaryIndex).1.toInt, (Config.secondarySample au.secondaryIndex).2.toInt),
     { au with secondaryIndex := au.secondaryIndex + 1 })
  else ((0, 0), au)

/-- One stereo pair of `audio_drain` (R570). -/
def Audio.drainOne (c : Params) (au : Audio) : (Int × Int) × Audio :=
  let t := au.take c
  let m := clamp16 (scaleVolume c t.1)
  let s := t.2.secondary c
  ((clamp16 (m + s.1.1), clamp16 (m + s.1.2)), s.2)

/-- `audio_drain(k)`: `k` stereo pairs, oldest first (R570). -/
def Audio.drain (c : Params) : Nat → Audio → List (Int × Int) × Audio
  | 0, au => ([], au)
  | k + 1, au =>
    let r := au.drainOne c
    let rest := Audio.drain c k r.2
    (r.1 :: rest.1, rest.2)

/-- `audio_sync(c)`: re-anchor, zero the ring, empty it (R575). -/
def Audio.sync (c : Params) (cyc : Nat) (au : Audio) : Audio :=
  { au with
    currentSample := samplePos c cyc
    ring := au.ring.map fun _ => 0
    write := au.read }

end Sys2Proof.Machine
end

