-- ==== Sys2Proof/Machine/Disk.lean ====
section
/-! DEFINITION. The Disk II controller: sequencer, head stepping, I/O range and media (64_disk_lss.md). -/

namespace Sys2Proof.Machine

/-! ## Drives and tracks -/

/-- The drive a number names. -/
def Disk.drive (dk : Disk) (d : Fin 2) : Drive := if d = 0 then dk.drive0 else dk.drive1

/-- The disk with one drive replaced. -/
def Disk.setDrive (dk : Disk) (d : Fin 2) (dr : Drive) : Disk :=
  if d = 0 then { dk with drive0 := dr } else { dk with drive1 := dr }

/-- The selected drive (R600). -/
def Disk.sel (dk : Disk) : Drive := dk.drive dk.selected

/-- What a quarter-track of a medium maps to; a quarter-track the table does not have is noise. -/
def Medium.refAt (m : Medium) (q : Nat) : TrackRef := m.trackId.getD q .noise

/-- The physical track a quarter-track maps to, if any. -/
def Medium.trackAt (m : Medium) (q : Nat) : Option Track :=
  match m.refAt q with
  | .noise => none
  | .track n => m.tracks[n.val]?

/-- The number of bits of the track at a quarter-track, `bit_count`. For NOISE, to which the spec gives none, it is taken
as 0: DESIGN CHOICE (notes/assumptions/33.md). -/
def Medium.bitCountAt (m : Medium) (q : Nat) : Nat :=
  match m.trackAt q with
  | none => 0
  | some t => t.bitCount

/-- The medium with the track at a quarter-track replaced by a function of it (nothing for noise). -/
def Medium.updateAt (m : Medium) (q : Nat) (f : Track → Track) : Medium :=
  match m.refAt q with
  | .noise => m
  | .track n => { m with tracks := m.tracks.modify n.val f }

/-- `bit_count` of the track under the head; with no medium 0, where R602 and R608 neither read nor write a bit, and on a
NOISE track 0 (`Medium.bitCountAt`, notes/assumptions/33.md). -/
def Drive.bitCount (d : Drive) : Nat :=
  match d.medium with
  | none => 0
  | some m => m.bitCountAt d.qtrack

/-- Bit `i` of track data: `(data[i >> 3] >> (7 − (i & 7))) & 1` (R601). -/
def trackBit (data : Memory) (i : Nat) : Bool := (Memory.read data (i / 8)).getLsbD (7 - i % 8)

/-- Track data with bit `i` set to a value. -/
def setTrackBit (data : Memory) (i : Nat) (b : Bool) : Memory :=
  let mask : Byte := 1#8 <<< (7 - i % 8)
  let old := Memory.read data (i / 8)
  Memory.write data (i / 8) (if b then old ||| mask else old &&& ~~~mask)

/-- `bit_position`, in [0, `bit_count`) in every state (10_state.md R53): the place of `headPosition` on a track "circular (head
position wraps at bit_count)" (R601). The two differ only between a mount that keeps or sets a position past the end of the
track and the head's next move; that the wrap of R601 applies there is DEDUCED (notes/assumptions/22.md). -/
def Drive.bitPosition (d : Drive) : Nat := d.headPosition % d.bitCount

/-- `ReadBit()`: the bit under the head, or a draw where there is no track bit to read (R602). -/
def Drive.readBit (d : Drive) (draws : Nat) : Bool × Nat :=
  if 0 < d.bitCount then (trackBit d.currTrack d.bitPosition, draws)
  else (Config.drawBit draws, draws + 1)

/-- `WriteBit(b)` (R608). -/
def Drive.writeBit (d : Drive) (b : Bool) : Drive :=
  if 0 < d.bitCount ∧ d.writeProtected = false then
    { d with
      currTrack := setTrackBit d.currTrack d.bitPosition b
      medium := d.medium.map fun m => m.updateAt d.qtrack fun t => { t with dirty := true } }
  else d

/-- The head moves on by one bit: `(bit_position + 1) mod bit_count`, "when bit_count > 0" (R606). -/
def Drive.advance (d : Drive) : Drive :=
  if d.bitCount > 0 then { d with headPosition := (d.bitPosition + 1) % d.bitCount } else d

/-! ## The sequencer -/

/-- `Act(a)`: the data register after the action nibble of the ROM byte (R607). -/
def lssAct (a : BitVec 4) (data write : Byte) (writeProtected : Bool) : Byte :=
  if a = 0x8#4 ∨ a = 0xC#4 then data
  else if a = 0x9#4 then data <<< 1
  else if a = 0xD#4 then data <<< 1 ||| 1#8
  else if a = 0xA#4 ∨ a = 0xE#4 then data >>> 1 ||| (if writeProtected then 0x80#8 else 0#8)
  else if a = 0xB#4 ∨ a = 0xF#4 then write
  else 0#8

/-- The cell part of `LssStep()`: `clock` advances by 4, and a new bit cell writes or reads a bit and moves the head (R606). -/
def Disk.cellStep (c : Params) (dk : Disk) (draws : Nat) : Disk × Nat :=
  if dk.clock + 4 ≥ c.bitTiming then
    if dk.q7 then
      ({ dk.setDrive dk.selected (dk.sel.writeBit (dk.dataRegister.getLsbD 7)).advance with
         clock := dk.clock + 4 - c.bitTiming
         rp := false }, draws)
    else
      ({ dk.setDrive dk.selected dk.sel.advance with
         clock := dk.clock + 4 - c.bitTiming
         head := (dk.sel.readBit draws).1
         rp := (dk.sel.readBit draws).1 }, (dk.sel.readBit draws).2)
  else ({ dk with clock := dk.clock + 4, rp := false }, draws)

/-- The index into `LSS_ROM`: state, Q7, Q6, QA (bit 7 of the data register), RP (R606). -/
def Disk.lssIndex (dk : Disk) : Nat :=
  dk.lssState.toNat * 16 + dk.q7.toNat * 8 + dk.q6.toNat * 4 + (dk.dataRegister.getLsbD 7).toNat * 2 + dk.rp.toNat

/-- The ROM part of `LssStep()`: next state and action (R606). -/
def Disk.romStep (c : Params) (dk : Disk) : Disk :=
  { dk with
    lssState := (lssRomByte c dk.lssIndex).extractLsb' 4 4
    dataRegister :=
      lssAct ((lssRomByte c dk.lssIndex).extractLsb' 0 4) dk.dataRegister dk.writeRegister dk.sel.writeProtected }

/-- `LssStep()` (R606). -/
def Disk.lssStep (c : Params) (dk : Disk) (draws : Nat) : Disk × Nat :=
  ((dk.cellStep c draws).1.romStep c, (dk.cellStep c draws).2)

/-- `n` sequencer steps. -/
def Disk.lssSteps (c : Params) : Nat → Disk → Nat → Disk × Nat
  | 0, dk, draws => (dk, draws)
  | n + 1, dk, draws => Disk.lssSteps c n (dk.lssStep c draws).1 (dk.lssStep c draws).2

/-- `DiskStep(k)` on the controller: `LSS_STEPS_PER_CYCLE · k` steps when the motor is on and the selected drive has a
medium (R605). -/
def Disk.run (c : Params) (k : Nat) (dk : Disk) (draws : Nat) : Disk × Nat :=
  if dk.motor = true ∧ dk.sel.medium.isSome = true then Disk.lssSteps c (c.lssStepsPerCycle * k) dk draws
  else (dk, draws)

/-! ## Head stepping -/

/-- The target position, in eighths of the four-phase cycle, that the energised phases pull to (R612). -/
def stepperTarget (stepper : Byte) : Option Nat :=
  match (stepper.extractLsb' 0 4).toNat with
  | 1 => some 0
  | 3 => some 1
  | 2 => some 2
  | 6 => some 3
  | 4 => some 4
  | 12 => some 5
  | 8 => some 6
  | 9 => some 7
  | _ => none

/-- The default `STEPPER_RULE` (R612). -/
def defaultStep (stepper : Byte) (q : Nat) : Nat :=
  match stepperTarget stepper with
  | none => q
  | some target =>
    let d := (target + 8 - q % 8) % 8
    if d = 1 ∨ d = 2 ∨ d = 3 then min (q + 1) Config.qtrackMax
    else if d = 5 ∨ d = 6 ∨ d = 7 then q - 1
    else q

/-- `STEPPER_RULE`: the default, or the host's rule kept within [0, 140] (R612). -/
def stepHead (c : Params) (stepper : Byte) (n : Nat) (q : Nat) : Nat :=
  match c.stepperRule with
  | .specDefault => defaultStep stepper q
  | .supplied => min (Config.stepperTarget stepper n q) Config.qtrackMax

/-- Store the current track back into its medium when it is dirty (R614). -/
def Drive.storeTrack (d : Drive) : Drive :=
  { d with
    medium := d.medium.map fun m => m.updateAt d.qtrack fun t =>
      if t.dirty then { t with bits := d.currTrack, dirty := false } else t }

/-- The bytes of the track at a quarter-track of a medium: nothing for noise. -/
def Medium.bitsAt (m : Medium) (q : Nat) : Memory :=
  match m.trackAt q with
  | none => []
  | some t => t.bits

/-- The head arrives at quarter-track `q`: when `track_id` there differs, the current track is stored and the new one
loaded, and `bit_position` is taken modulo its length (R614). -/
def Drive.moveHead (d : Drive) (q : Nat) : Drive :=
  match d.medium with
  | none => { d with qtrack := q }
  | some m =>
    if m.refAt q = m.refAt d.qtrack then { d with qtrack := q }
    else
      { d.storeTrack with
        qtrack := q
        currTrack := m.bitsAt q
        headPosition := if m.bitCountAt q = 0 then 0 else d.bitPosition % m.bitCountAt q }

/-- Phase `n` of a drive takes a value; when this changes the bit, the head moves (R610). -/
def Drive.setPhase (c : Params) (n : Fin 4) (v : Bool) (d : Drive) : Drive :=
  if d.stepper.getLsbD n.val = v then d
  else
    let s : Byte := if v then d.stepper ||| 1#8 <<< n.val else d.stepper &&& ~~~(1#8 <<< n.val)
    { d with stepper := s }.moveHead (stepHead c s n.val d.qtrack)

/-! ## The I/O range -/

/-- "The drive's own motor field equals the controller's motor for the selected drive and is 0 for the other" (R620). -/
def Disk.syncMotors (dk : Disk) : Disk :=
  { dk with
    drive0 := { dk.drive0 with motor := dk.motor && decide (dk.selected = 0) }
    drive1 := { dk.drive1 with motor := dk.motor && decide (dk.selected = 1) } }

/-- The action of offset `off` of the I/O range (R620). -/
def Disk.action (c : Params) (off : BitVec 4) (dk : Disk) : Disk :=
  match off.toNat with
  | 0x0 => dk.setDrive dk.selected (dk.sel.setPhase c 0 false)
  | 0x1 => dk.setDrive dk.selected (dk.sel.setPhase c 0 true)
  | 0x2 => dk.setDrive dk.selected (dk.sel.setPhase c 1 false)
  | 0x3 => dk.setDrive dk.selected (dk.sel.setPhase c 1 true)
  | 0x4 => dk.setDrive dk.selected (dk.sel.setPhase c 2 false)
  | 0x5 => dk.setDrive dk.selected (dk.sel.setPhase c 2 true)
  | 0x6 => dk.setDrive dk.selected (dk.sel.setPhase c 3 false)
  | 0x7 => dk.setDrive dk.selected (dk.sel.setPhase c 3 true)
  | 0x8 => { dk with motor := false }.syncMotors
  | 0x9 => { dk with motor := true }.syncMotors
  | 0xA => { dk with selected := 0 }.syncMotors
  | 0xB => { dk with selected := 1 }.syncMotors
  | 0xC => { dk with q6 := false }
  | 0xD => { dk with q6 := true }
  | 0xE => { dk with q7 := false }
  | _   => { dk with q7 := true }

/-- An access to the I/O range: the action, and for a write the byte goes to `write_register` (R620). -/
def Disk.access (c : Params) (off : BitVec 4) (written : Option Byte) (dk : Disk) : Disk :=
  match written with
  | none => dk.action c off
  | some v => { dk.action c off with writeRegister := v }

/-! ## Media -/

/-- A track of 64_disk_lss.md R601: at most 53 248 bits, its bytes canonical and within 6 656. -/
def Track.accepted (t : Track) : Bool :=
  decide (t.bitCount ≤ Config.maxTrackBits) && t.bits.wf && Memory.below 6656 t.bits

/-- A medium with 160 quarter-track entries and 35 accepted tracks (10_state.md R53). -/
def Medium.accepted (m : Medium) : Bool :=
  decide (m.trackId.length = 160) && decide (m.tracks.length = 35) && m.tracks.all Track.accepted

/-- `eject(d)` on a drive: a dirty current track is stored and the medium removed (R640). -/
def Drive.eject (d : Drive) : Drive := { d with medium := none, currTrack := [] }

/-- The medium as `eject` hands it back, its dirty track stored (R640). -/
def Drive.ejectedMedium (d : Drive) : Option Medium := d.storeTrack.medium

/-- `mount` on a drive: the media are installed and the track at `qtrack` loaded. With PRESERVE motor, stepper, `qtrack` and
`headPosition` stay as they are, whatever the medium; with RESET they take the given values (R640). -/
def Drive.mount (m : Medium) (writeProtected : Bool) (mode : MountMode) (d : Drive) : Drive :=
  match mode with
  | .preserve =>
    { d with medium := some m, writeProtected := writeProtected, currTrack := m.bitsAt d.qtrack }
  | .reset h =>
    { d with
      medium := some m
      writeProtected := writeProtected
      currTrack := m.bitsAt h.qtrack
      motor := h.motor
      stepper := h.stepper
      qtrack := h.qtrack
      headPosition := h.bitPosition.val }

/-- "A host restore must give `qtrack ≤ 140`" (90_conflicts.md C14); any other is refused (93_implementation_defined.md
section 1.3). -/
def HeadPlacement.accepted (h : HeadPlacement) : Bool := decide (h.qtrack ≤ Config.qtrackMax)

/-- May the host make this change? A mounted medium is one of R601, and a RESET gives a `qtrack` the drive has. -/
def MediaAction.accepted : MediaAction → Bool
  | .mount _ m _ .preserve => m.accepted
  | .mount _ m _ (.reset h) => m.accepted && h.accepted
  | .eject _ => true

/-- A change of media (R640). A RESET mount of the selected drive sets the controller's motor, which is that drive's (R620). -/
def Disk.media (act : MediaAction) (dk : Disk) : Disk :=
  match act with
  | .eject d => dk.setDrive d (dk.drive d).eject
  | .mount d m wp .preserve => dk.setDrive d ((dk.drive d).mount m wp .preserve)
  | .mount d m wp (.reset h) =>
    { dk.setDrive d ((dk.drive d).mount m wp (.reset h)) with
      motor := if d = dk.selected then h.motor else dk.motor }.syncMotors

end Sys2Proof.Machine
end

