-- ==== Sys2Proof/Machine/Ops.lean ====
section
/-! DEFINITION. The named operations over registers and memory: the bus with its I/O page (20_memory.md), the stack, the
cycle charge, the fault log, taking an interrupt and returning from one (60_exceptions.md), and the trap callback. -/

namespace Sys2Proof.Machine

/-! ## Registers -/

/-- `A <- v` -/
def State.setA (s : State) (v : Byte) : State := { s with a := v }
/-- `X <- v` -/
def State.setX (s : State) (v : Byte) : State := { s with x := v }
/-- `Y <- v` -/
def State.setY (s : State) (v : Byte) : State := { s with y := v }
/-- `S <- v` -/
def State.setSp (s : State) (v : Byte) : State := { s with sp := v }
/-- `PC <- v` -/
def State.setPc (s : State) (v : Addr) : State := { s with pc := v }
/-- The stored flags of P replaced. -/
def State.setP (s : State) (f : Flags) : State := { s with p := f }

/-- `Charge(k)`: `k` onto `cycle` and `total_cycle`, at their widths (61_timers.md R451). -/
def State.charge (s : State) (k : Nat) : State :=
  { s with cycle := s.cycle + BitVec.ofNat 32 k, totalCycle := s.totalCycle + BitVec.ofNat 64 k }

/-- The end of the execution frame: PC takes the address the instruction ends at, and the cost is charged (40_load_store.md R196). -/
def State.retire (s : State) (pc : Addr) (k : Nat) : State := (s.setPc pc).charge k

/-- `LogFault(pc, opcode)`: one entry appended to the fault log, nothing else (60_exceptions.md R404). -/
def State.logFault (s : State) (pc : Addr) (op : Byte) : State := { s with faultLog := s.faultLog ++ [(pc, op)] }

/-! ## Addresses -/

/-- `sext_16(v)` (00_scope.md R9). -/
def sext16 (v : Byte) : Addr := v.signExtend 16

/-- `crossed(a, b)`: the two addresses lie in different pages (00_scope.md R17). -/
def crossed (a b : Addr) : Bool := highByte a != highByte b

/-- A zero-page address. -/
def zeroPage (z : Byte) : Addr := wordOf z 0#8

/-- The stack address `$0100 | S` (10_state.md R33). -/
def stackAddr (sp : Byte) : Addr := wordOf sp 1#8

/-! ## RAM -/

/-- The bank an access of $0000-$BFFF reaches: `BANK_SEL(addr, is_write, sw)`, main by default (20_memory.md R80). -/
def State.bankOf (s : State) (a : Addr) (isWrite : Bool) : Bank :=
  match s.cfg.bankSel with
  | .specDefault => .main
  | .supplied => Config.bankSelect a isWrite s.sw

/-- The RAM of a bank. -/
def State.ram (s : State) (b : Bank) : Memory :=
  match b with
  | .main => s.ramMain
  | .aux => s.ramAux

/-- The state with a byte of a bank replaced. -/
def State.setRam (s : State) (b : Bank) (a : Nat) (v : Byte) : State :=
  { s with
    ramMain := if b = .main then Memory.write s.ramMain a v else s.ramMain
    ramAux := if b = .aux then Memory.write s.ramAux a v else s.ramAux }

/-! ## The I/O page ($C000-$C0FF) -/

/-- What an access does besides giving or taking a byte: a read, or a write of a byte. -/
inductive Access where
  | read
  | write (v : Byte)
  deriving DecidableEq, Repr

/-- The byte an access writes, if it is a write. -/
def Access.written : Access → Option Byte
  | .read => none
  | .write v => some v

/-- `AN3_MODE_UPDATE(an3_mode, sw)`: unchanged by default (20_memory.md R92). -/
def an3ModeUpdate (c : Params) (m : BitVec 2) (sw : SoftSwitches) : BitVec 2 :=
  match c.an3ModeUpdate with
  | .specDefault => m
  | .supplied => Config.an3ModeUpdate m sw

/-- `DHIRES <- v; AN3 <- not v; an3_mode <- AN3_MODE_UPDATE(an3_mode, sw)` (20_memory.md R92). -/
def SoftSwitches.setDhires (c : Params) (v : Bool) (sw : SoftSwitches) : SoftSwitches :=
  let sw' := { sw with dhires := v, an3 := !v }
  { sw' with an3Mode := an3ModeUpdate c sw.an3Mode sw' }

/-- The soft-switches after an access at `$C000 + off` (20_memory.md R92). -/
def SoftSwitches.access (c : Params) (off : Byte) (acc : Access) (sw : SoftSwitches) : SoftSwitches :=
  match off.toNat with
  | 0x00 => if acc = .read then sw else { sw with store80 := false }
  | 0x01 => if acc = .read then sw else { sw with store80 := true }
  | 0x0C => { sw with col80 := false }
  | 0x0D => { sw with col80 := true }
  | 0x0E => { sw with altCharset := false }
  | 0x0F => { sw with altCharset := true }
  | 0x50 => { sw with text := false }
  | 0x51 => { sw with text := true }
  | 0x52 => { sw with mixed := false }
  | 0x53 => { sw with mixed := true }
  | 0x54 => { sw with page2 := false }
  | 0x55 => { sw with page2 := true }
  | 0x56 => { sw with hires := false }
  | 0x57 => { sw with hires := true }
  | 0x5E => sw.setDhires c true
  | 0x5F => sw.setDhires c false
  | _ => sw

/-- Is `$C000 + off` in the Disk II range, `$C080 + 16·DISK_SLOT` and the 15 addresses after it (20_memory.md R95)? -/
def isDiskOffset (c : Params) (off : Byte) : Bool := off.toNat / 16 == 8 + c.diskSlot.val

/-- The side effects of an access at `$C000 + off`: keyboard strobe (R91), soft-switches (R92), speaker (R93) and Disk II
(R95). Every other address has none (R96, R97). -/
def State.ioEffect (s : State) (off : Byte) (acc : Access) : State :=
  { s with
    kbdLatch := if off = 0x10#8 then s.kbdLatch &&& 0x7F#8 else s.kbdLatch
    sw := s.sw.access s.cfg off acc
    video := if off = 0x0E#8 ∨ off = 0x0F#8 then { s.video with blinkTextDirty := true } else s.video
    audio := if off = 0x30#8 then s.audio.click s.cfg s.totalCycle.toNat else s.audio
    disk := if isDiskOffset s.cfg off then s.disk.access s.cfg (off.extractLsb' 0 4) acc.written else s.disk }

/-- Which bits of a read at `$C000 + off` a rule fixes, and their values: `kbd_latch` at $C000-$C00F (R90), bit 7 of $C019
(R94), `data_register` at even Disk II offsets (64_disk_lss.md R620). The other bits are drawn (R98). -/
def State.ioFixed (s : State) (off : Byte) : Byte × Byte :=
  if off.toNat < 0x10 then (0xFF#8, s.kbdLatch)
  else if off = 0x19#8 then (0x80#8, if s.video.vblPhase = .blanking then 0x80#8 else 0#8)
  else if isDiskOffset s.cfg off && !off.getLsbD 0 then (0xFF#8, s.disk.dataRegister)
  else (0#8, 0#8)

/-- A read at `$C000 + off`: the fixed bits, the rest drawn, and the side effects. -/
def State.ioRead (s : State) (off : Byte) : Byte × State :=
  if (s.ioFixed off).1 = 0xFF#8 then ((s.ioFixed off).2, s.ioEffect off .read)
  else
    ((Config.drawByte s.draws &&& ~~~(s.ioFixed off).1) ||| ((s.ioFixed off).2 &&& (s.ioFixed off).1),
     { s.ioEffect off .read with draws := s.draws + 1 })

/-! ## The bus -/

/-- `MemRead(addr, 1)`: the byte, and the state after the read's side effects (20_memory.md R80). -/
def busRead (a : Addr) (s : State) : Byte × State :=
  if a.toNat < 0xC000 then (Memory.read (s.ram (s.bankOf a false)) a.toNat, s)
  else if a.toNat < 0xC100 then s.ioRead (lowByte a)
  else if a.toNat < 0xD000 then (cardRomByte s.cfg a.toNat, s)
  else (romByte s.cfg (a.toNat - 0xC000), s)

/-- `MemWrite(addr, 1, v)`: a write to $C100-$FFFF has no effect (20_memory.md R80). -/
def busWrite (a : Addr) (v : Byte) (s : State) : State :=
  if a.toNat < 0xC000 then s.setRam (s.bankOf a true) a.toNat v
  else if a.toNat < 0xC100 then s.ioEffect (lowByte a) (.write v)
  else s

/-- `Read16(addr)`: low byte first, from `addr` and `addr + 1` modulo 65 536 (00_scope.md R12). -/
def read16 (a : Addr) (s : State) : Addr × State :=
  let lo := busRead a s
  let hi := busRead (a + 1) lo.2
  (wordOf lo.1 hi.1, hi.2)

/-- `Read16zp(z)`: the high byte from `(z + 1) & $FF` (00_scope.md R12). -/
def read16zp (z : Byte) (s : State) : Addr × State :=
  let lo := busRead (zeroPage z) s
  let hi := busRead (zeroPage (z + 1)) lo.2
  (wordOf lo.1 hi.1, hi.2)

/-! ## The stack -/

/-- `Push(v)`: write at `$0100 | S`, then decrement S (00_scope.md R13). -/
def push (v : Byte) (s : State) : State := (busWrite (stackAddr s.sp) v s).setSp (s.sp - 1)

/-- `Pull()`: increment S, then read at `$0100 | S` (00_scope.md R13). -/
def pull (s : State) : Byte × State := busRead (stackAddr (s.sp + 1)) (s.setSp (s.sp + 1))

/-- `PackP(b) = N<<7 | V<<6 | 1<<5 | b<<4 | D<<3 | I<<2 | Z<<1 | C` (10_state.md R35). -/
def packP (f : Flags) (b : Bool) : Byte :=
  BitVec.ofBool f.n ++ BitVec.ofBool f.v ++ 1#1 ++ BitVec.ofBool b ++ BitVec.ofBool f.d ++ BitVec.ofBool f.i
    ++ BitVec.ofBool f.z ++ BitVec.ofBool f.c

/-- `UnpackP(v)`: the flags from bits 7, 6, 3, 2, 1, 0, bits 5 and 4 ignored (10_state.md R35). -/
def unpackP (v : Byte) : Flags where
  n := v.getLsbD 7
  v := v.getLsbD 6
  d := v.getLsbD 3
  i := v.getLsbD 2
  z := v.getLsbD 1
  c := v.getLsbD 0

/-! ## Interrupts -/

/-- The interrupt-entry sequence `EnterInterrupt(vector, b)`: PC high, PC low and `PackP(b)` pushed, I set, D cleared, PC
from the vector (60_exceptions.md R412). -/
def enterInterrupt (vector : Addr) (b : Bool) (s : State) : State :=
  let s1 := push (highByte s.pc) s
  let s2 := push (lowByte s.pc) s1
  let s3 := push (packP s.p b) s2
  let v := read16 vector (s3.setP { s3.p with i := true, d := false })
  v.2.setPc v.1

/-- The return from an interrupt: P, then PC low, then PC high pulled (45_control.md R355). -/
def returnFromInterrupt (s : State) : State :=
  let f := pull s
  let lo := pull (f.2.setP (unpackP f.1))
  let hi := pull lo.2
  hi.2.setPc (wordOf lo.1 hi.1)

/-- The IRQ/BRK vector (20_memory.md R82). -/
def irqVector : Addr := 0xFFFE#16
/-- The NMI vector (20_memory.md R82). -/
def nmiVector : Addr := 0xFFFA#16
/-- The cost of an interrupt entry (60_exceptions.md R412). -/
def interruptCycles : Nat := 7

/-! ## Traps -/

/-- The callback registered for a trap index, if any (10_state.md R43). -/
def lookupTrap (table : List (Byte × Nat)) (t : Byte) : Option Nat :=
  match table.find? (fun e => e.1 == t) with
  | some e => some e.2
  | none => none

/-- A RAM byte written by a trap callback: directly in its bank, without soft-switch side effects; an address outside
$0000-$BFFF is no RAM byte (60_exceptions.md R406). -/
def trapRamWrite (s : State) (w : Bank × Addr × Byte) : State :=
  if w.2.1.toNat < 0xC000 then s.setRam w.1 w.2.1.toNat w.2.2 else s

/-- A change of media by a trap callback; one the host interface refuses is not made (60_exceptions.md R406). R406 names the
mounted media only: that the mount may be a RESET mount, which sets the drive's motor, stepper, `qtrack` and `bit_position`
and the controller's motor with it, is a DESIGN CHOICE (notes/assumptions/15.md). -/
def trapMedia (s : State) (m : MediaAction) : State :=
  if m.accepted then { s with disk := s.disk.media m } else s

/-- The state after a callback's effect (60_exceptions.md R406). -/
def applyTrap (s : State) (e : TrapEffect) : State :=
  let s1 := e.ramWrites.foldl trapRamWrite s
  let s2 := e.media.foldl trapMedia s1
  { s2 with
    a := e.a
    x := e.x
    y := e.y
    sp := e.sp
    pc := e.pc
    p := e.p
    irqLine := e.irqLine
    nmiPending := e.nmiPending
    instructionRun := e.instructionRun
    video := if e.ramWrites.isEmpty then s2.video else { s2.video with frameDirty := true }
    draws := s2.draws + 1 }

/-- `CallTrap(t)`: what the registered callback does is the host's, a free value (60_exceptions.md R406). -/
def callTrap (handler : Nat) (s : State) : State := applyTrap s (Config.trapCallback handler s.draws s)

end Sys2Proof.Machine
end

