-- ==== Sys2Proof/Machine/Operands.lean ====
section
/-! DEFINITION. Every operand form: effective addresses (30_encoding.md R135), `Load()`, `Store()` and `Modify()`
(40_load_store.md R197 to R199), lengths (R131) and the cycles of each form (R136, R141). -/

namespace Sys2Proof.Machine

/-! ## Effective addresses -/

/-- An effective address, whether it lies in another page than its base, and the state after the pointer reads. -/
structure Resolved where
  addr    : Addr
  crossed : Bool
  st      : State

/-- `EffAddr(mode)` (30_encoding.md R135): zero-page indexing wraps in page 0, pointer bytes come from page 0. -/
def resolve (m : MemMode) (s : State) : Resolved :=
  match m with
  | .zp z  => ⟨zeroPage z, false, s⟩
  | .zpx z => ⟨zeroPage (z + s.x), false, s⟩
  | .zpy z => ⟨zeroPage (z + s.y), false, s⟩
  | .abs w => ⟨w, false, s⟩
  | .abx w => ⟨w + s.x.setWidth 16, crossed w (w + s.x.setWidth 16), s⟩
  | .aby w => ⟨w + s.y.setWidth 16, crossed w (w + s.y.setWidth 16), s⟩
  | .izx z => let p := read16zp (z + s.x) s; ⟨p.1, false, p.2⟩
  | .izy z => let p := read16zp z s; ⟨p.1 + s.y.setWidth 16, crossed p.1 (p.1 + s.y.setWidth 16), p.2⟩
  | .izp z => let p := read16zp z s; ⟨p.1, false, p.2⟩

/-- The memory mode of a read-modify-write target, if it is not the accumulator. -/
def rmwMemMode : RmwMode → Option MemMode
  | .acc => none
  | .zp z => some (.zp z)
  | .zpx z => some (.zpx z)
  | .abs w => some (.abs w)
  | .abx w => some (.abx w)

/-- The memory mode of a TSB or TRB target. -/
def testMemMode : TestMode → MemMode
  | .zp z => .zp z
  | .abs w => .abs w

/-! ## Lengths (30_encoding.md R131) -/

/-- The length of an instruction in a memory mode. -/
def modeLength : MemMode → Addr
  | .zp _ | .zpx _ | .zpy _ | .izx _ | .izy _ | .izp _ => 2
  | .abs _ | .abx _ | .aby _ => 3

/-- The length of an instruction with a source operand. -/
def srcLength : Src → Addr
  | .imm _ => 2
  | .mem m => modeLength m

/-- The length of a read-modify-write instruction. -/
def rmwLength : RmwMode → Addr
  | .acc => 1
  | .zp _ | .zpx _ => 2
  | .abs _ | .abx _ => 3

/-- The length of TSB and TRB. -/
def testLength : TestMode → Addr
  | .zp _ => 2
  | .abs _ => 3

/-! ## Cycles (30_encoding.md R136, R141) -/

/-- The cycles of a reading instruction: 2 imm, 3 zp, 4 zpx zpy abs, 4+p abx aby, 6 izx, 5+p izy, 5 izp. -/
def readCycles (m : Src) (crossed : Bool) : Nat :=
  match m with
  | .imm _ => 2
  | .mem (.zp _) => 3
  | .mem (.zpx _) | .mem (.zpy _) | .mem (.abs _) => 4
  | .mem (.abx _) | .mem (.aby _) => 4 + crossed.toNat
  | .mem (.izx _) => 6
  | .mem (.izy _) => 5 + crossed.toNat
  | .mem (.izp _) => 5

/-- The cycles of a store: 3 zp, 4 zpx zpy abs, 5 abx aby, 6 izx izy, 5 izp; no page-crossing penalty. -/
def storeCycles : MemMode → Nat
  | .zp _ => 3
  | .zpx _ | .zpy _ | .abs _ => 4
  | .abx _ | .aby _ => 5
  | .izx _ | .izy _ => 6
  | .izp _ => 5

/-- The cycles of INC and DEC: 2 acc, 5 zp, 6 zpx abs, 7 abx whatever the page. -/
def incCycles (m : RmwMode) (_crossed : Bool) : Nat :=
  match m with
  | .acc => 2
  | .zp _ => 5
  | .zpx _ | .abs _ => 6
  | .abx _ => 7

/-- The cycles of ASL, LSR, ROL and ROR: 2 acc, 5 zp, 6 zpx abs, 6+p abx. -/
def shiftCycles (m : RmwMode) (crossed : Bool) : Nat :=
  match m with
  | .acc => 2
  | .zp _ => 5
  | .zpx _ | .abs _ => 6
  | .abx _ => 6 + crossed.toNat

/-- The cycles of TSB and TRB: 5 zp, 6 abs. -/
def testCycles : TestMode → Nat
  | .zp _ => 5
  | .abs _ => 6

/-! ## Reading, storing and modifying -/

/-- The operand of a reading instruction, whether its address crossed a page, and the state after the reads. -/
structure Loaded where
  value   : Byte
  crossed : Bool
  st      : State

/-- `Load()` (40_load_store.md R197): the operand read exactly once. -/
def load (m : Src) (s : State) : Loaded :=
  match m with
  | .imm n => ⟨n, false, s⟩
  | .mem mm =>
    let e := resolve mm s
    let r := busRead e.addr e.st
    ⟨r.1, e.crossed, r.2⟩

/-- A reading instruction: `Load()`, then its effect on the registers, then the frame's end (R196). `extra` is the
decimal-mode penalty (R136). -/
def readInstr (m : Src) (extra : Nat) (f : Byte → State → State) (s : State) : State :=
  let l := load m s
  (f l.value l.st).retire (s.pc + srcLength m) (readCycles m l.crossed + extra)

/-- A storing instruction: `Store(v)` (40_load_store.md R198), then the frame's end. -/
def storeInstr (m : MemMode) (v : Byte) (s : State) : State :=
  let e := resolve m s
  (busWrite e.addr v e.st).retire (s.pc + modeLength m) (storeCycles m)

/-- A read-modify-write instruction: `Modify(f)`, one read then one write, or the accumulator (40_load_store.md R199).
`f` gives the result and the flags from the operand and the old flags. -/
def modifyInstr (m : RmwMode) (cycles : RmwMode → Bool → Nat) (f : Byte → Flags → Byte × Flags) (s : State) : State :=
  match rmwMemMode m with
  | none => ((s.setA (f s.a s.p).1).setP (f s.a s.p).2).retire (s.pc + rmwLength m) (cycles m false)
  | some mm =>
    let e := resolve mm s
    let r := busRead e.addr e.st
    let w := busWrite e.addr (f r.1 s.p).1 r.2
    (w.setP (f r.1 s.p).2).retire (s.pc + rmwLength m) (cycles m e.crossed)

/-- TSB and TRB: read, Z from `A & v`, write the new value (43_logic_shift.md R288, R289). -/
def testInstr (m : TestMode) (g : Byte → Byte → Byte) (s : State) : State :=
  let e := resolve (testMemMode m) s
  let r := busRead e.addr e.st
  let w := busWrite e.addr (g s.a r.1) r.2
  (w.setP { s.p with z := s.a &&& r.1 == 0#8 }).retire (s.pc + testLength m) (testCycles m)

/-- RMBn and SMBn: one read then one write of a zero-page byte (44_bit_ops.md R300). -/
def bitModifyInstr (z : Byte) (g : Byte → Byte) (s : State) : State :=
  let r := busRead (zeroPage z) s
  (busWrite (zeroPage z) (g r.1) r.2).retire (s.pc + 2) 5

/-- The target of a relative branch: `PC_next + sext_16(rr)` (30_encoding.md R134). -/
def branchTarget (pcNext : Addr) (rr : Byte) : Addr := pcNext + sext16 rr

/-- A branch of `base` cycles ending at `pcNext` when not taken: taken it costs 1 more, and 1 more again to another page
(30_encoding.md R136, 45_control.md R340, 44_bit_ops.md R320). -/
def branch (taken : Bool) (pcNext : Addr) (rr : Byte) (base : Nat) (s : State) : State :=
  if taken then s.retire (branchTarget pcNext rr) (base + 1 + (crossed pcNext (branchTarget pcNext rr)).toNat)
  else s.retire pcNext base

/-- A two-byte branch on a condition (45_control.md R340). -/
def branchInstr (cond : Bool) (rr : Byte) (s : State) : State := branch cond (s.pc + 2) rr 2 s

/-- BBRn and BBSn: branch when bit `n` of a zero-page byte has a value, the byte read once (44_bit_ops.md R320). -/
def bitBranchInstr (n : Nat) (want : Bool) (z rr : Byte) (s : State) : State :=
  let r := busRead (zeroPage z) s
  branch (r.1.getLsbD n == want) (s.pc + 3) rr 5 r.2

/-- A one-byte instruction: its effect on the registers, then the frame's end. -/
def impliedInstr (cycles : Nat) (f : State → State) (s : State) : State := (f s).retire (s.pc + 1) cycles

end Sys2Proof.Machine
end

