-- ==== Sys2Proof/Machine/Flags.lean ====
section
/-! DEFINITION. Every flag computation: SetNZ (00_scope.md R14), addition and subtraction, binary and decimal
(42_arithmetic.md R250 to R253), compare (R255), and the shifts (43_logic_shift.md R284 to R287). -/

namespace Sys2Proof.Machine

/-- `SetNZ(v)`: N from bit 7, Z when the value is 0 (00_scope.md R14). -/
def setNZ (v : Byte) (f : Flags) : Flags := { f with n := v.getLsbD 7, z := v == 0#8 }

/-- What an addition or subtraction gives: the result and the carry and overflow flags. -/
structure Sum where
  value : Byte
  c     : Bool
  v     : Bool
  deriving DecidableEq, Repr

/-- A sign-extended byte lies outside −128..+127? The overflow of a signed result (42_arithmetic.md R254). -/
def signedOverflow (t : Int) : Bool := decide (t < -128) || decide (t > 127)

/-- Binary ADC: `t <- A + M + P.C`, `V <- ((A ^ t) & (M ^ t) & $80) != 0`, `C <- (t > 255)` (R250). -/
def addBinary (a m : Byte) (c : Bool) : Sum :=
  let t := a.toNat + m.toNat + c.toNat
  let r := BitVec.ofNat 8 t
  { value := r, c := decide (t > 255), v := ((a ^^^ r) &&& (m ^^^ r) &&& 0x80#8) != 0#8 }

/-- The low digit of a decimal addition with its carry: `AL` (R252). -/
def decimalLow (a m : Byte) (c : Bool) : Nat :=
  let al := (a &&& 0x0F#8).toNat + (m &&& 0x0F#8).toNat + c.toNat
  if al ≥ 0x0A then (al + 6) % 16 + 0x10 else al

/-- `DecimalAdd(M)` (R252). V is that of R252's `s`, as vector V45 has it; that D49 of 92_eei_decisions.md means `s` by
"the binary sum" is read so by inference, DEDUCED (notes/assumptions/31.md). -/
def addDecimal (a m : Byte) (c : Bool) : Sum :=
  let al := decimalLow a m c
  let t := (a &&& 0xF0#8).toNat + (m &&& 0xF0#8).toNat + al
  let s : Int := (a &&& 0xF0#8).toInt + (m &&& 0xF0#8).toInt + al
  let t' := if t ≥ 0xA0 then t + 0x60 else t
  { value := BitVec.ofNat 8 t', c := decide (t' ≥ 0x100), v := signedOverflow s }

/-- ADC in the mode D selects (R250). -/
def adcSum (f : Flags) (a m : Byte) : Sum := if f.d then addDecimal a m f.c else addBinary a m f.c

/-- Binary SBC: `t <- A - M - (1 - P.C)`, `C <- (t >= 0)`, `V <- ((A ^ M) & (A ^ r) & $80) != 0` (R251). -/
def subBinary (a m : Byte) (c : Bool) : Sum :=
  let t : Int := a.toNat - m.toNat - (1 - c.toNat)
  let r := BitVec.ofInt 8 t
  { value := r, c := decide (t ≥ 0), v := ((a ^^^ m) &&& (a ^^^ r) &&& 0x80#8) != 0#8 }

/-- `DecimalSub(M)`: the decimal result; C and V are the binary ones (R251, R253). -/
def subDecimal (a m : Byte) (c : Bool) : Sum :=
  let al : Int := (a &&& 0x0F#8).toNat - (m &&& 0x0F#8).toNat + c.toNat - 1
  let t : Int := a.toNat - m.toNat + c.toNat - 1
  let t1 := if t < 0 then t - 0x60 else t
  let t2 := if al < 0 then t1 - 0x06 else t1
  { subBinary a m c with value := BitVec.ofInt 8 t2 }

/-- SBC in the mode D selects (R251). -/
def sbcSum (f : Flags) (a m : Byte) : Sum := if f.d then subDecimal a m f.c else subBinary a m f.c

/-- The flags of a sum: C, V, then SetNZ of the result. -/
def sumFlags (r : Sum) (f : Flags) : Flags := setNZ r.value { f with c := r.c, v := r.v }

/-- The extra cycle of ADC and SBC in decimal mode (30_encoding.md R136). -/
def decimalPenalty (f : Flags) : Nat := f.d.toNat

/-- Compare: `C <- (R >= M); Z <- (R == M); N <- (R - M)[7]`; V unchanged (R255). -/
def compareFlags (r m : Byte) (f : Flags) : Flags :=
  { f with c := decide (m.toNat ≤ r.toNat), z := r == m, n := (r - m).getLsbD 7 }

/-- INC: `(v + 1) & $FF`, then SetNZ (R258). -/
def incByte (v : Byte) (f : Flags) : Byte × Flags := (v + 1, setNZ (v + 1) f)

/-- DEC: `(v - 1) & $FF`, then SetNZ (R259). -/
def decByte (v : Byte) (f : Flags) : Byte × Flags := (v - 1, setNZ (v - 1) f)

/-- ASL: C from bit 7 (43_logic_shift.md R284). -/
def aslByte (v : Byte) (f : Flags) : Byte × Flags := (v <<< 1, setNZ (v <<< 1) { f with c := v.getLsbD 7 })

/-- LSR: C from bit 0 (R285). -/
def lsrByte (v : Byte) (f : Flags) : Byte × Flags := (v >>> 1, setNZ (v >>> 1) { f with c := v.getLsbD 0 })

/-- The result of ROL: bit 0 is the old carry (R286). -/
def rolValue (v : Byte) (c : Bool) : Byte := v <<< 1 ||| (BitVec.ofBool c).setWidth 8

/-- ROL: C from bit 7 (R286). -/
def rolByte (v : Byte) (f : Flags) : Byte × Flags := (rolValue v f.c, setNZ (rolValue v f.c) { f with c := v.getLsbD 7 })

/-- The result of ROR: bit 7 is the old carry (R287). -/
def rorValue (v : Byte) (c : Bool) : Byte := v >>> 1 ||| (BitVec.ofBool c).setWidth 8 <<< 7

/-- ROR: C from bit 0 (R287). -/
def rorByte (v : Byte) (f : Flags) : Byte × Flags := (rorValue v f.c, setNZ (rorValue v f.c) { f with c := v.getLsbD 0 })

/-- BIT: Z from `A & M`; N and V from bits 7 and 6 of M, but not in the immediate form (R283). -/
def bitFlags (m : Src) (a v : Byte) (f : Flags) : Flags :=
  match m with
  | .imm _ => { f with z := a &&& v == 0#8 }
  | .mem _ => { f with z := a &&& v == 0#8, n := v.getLsbD 7, v := v.getLsbD 6 }

end Sys2Proof.Machine
end

