-- ==== Sys2Proof/Machine/Arithmetic.lean ====
section
/-! DEFINITION. Arithmetic, compare, increment and decrement (42_arithmetic.md R250 to R263). -/

namespace Sys2Proof.Machine

/-! ## Add and subtract -/

/-- ADC, binary or decimal as P.D says (R250, R252). -/
def execAdc (m : Src) (s : State) : Host.Outcome State Fault Refusal :=
  .next (readInstr m (decimalPenalty s.p)
    (fun v t => (t.setA (adcSum t.p t.a v).value).setP (sumFlags (adcSum t.p t.a v) t.p)) s)

/-- SBC, binary or decimal as P.D says (R251, R253). -/
def execSbc (m : Src) (s : State) : Host.Outcome State Fault Refusal :=
  .next (readInstr m (decimalPenalty s.p)
    (fun v t => (t.setA (sbcSum t.p t.a v).value).setP (sumFlags (sbcSum t.p t.a v) t.p)) s)

/-! ## Compares -/

/-- CMP: the flags of A against the operand (R255). -/
def execCmp (m : Src) (s : State) : Host.Outcome State Fault Refusal :=
  .next (readInstr m 0 (fun v t => t.setP (compareFlags t.a v t.p)) s)

/-- CPX: the flags of X against the operand (R256). -/
def execCpx (m : Src) (s : State) : Host.Outcome State Fault Refusal :=
  .next (readInstr m 0 (fun v t => t.setP (compareFlags t.x v t.p)) s)

/-- CPY: the flags of Y against the operand (R257). -/
def execCpy (m : Src) (s : State) : Host.Outcome State Fault Refusal :=
  .next (readInstr m 0 (fun v t => t.setP (compareFlags t.y v t.p)) s)

/-! ## Increment and decrement -/

/-- INC of memory or A (R258). -/
def execInc (m : RmwMode) (s : State) : Host.Outcome State Fault Refusal :=
  .next (modifyInstr m incCycles incByte s)

/-- DEC of memory or A (R259). -/
def execDec (m : RmwMode) (s : State) : Host.Outcome State Fault Refusal :=
  .next (modifyInstr m incCycles decByte s)

/-- INX: `X <- (X + 1) & $FF; SetNZ(X)` (R260). -/
def execInx (s : State) : Host.Outcome State Fault Refusal :=
  .next (impliedInstr 2 (fun t => (t.setX (t.x + 1)).setP (setNZ (t.x + 1) t.p)) s)

/-- INY: `Y <- (Y + 1) & $FF; SetNZ(Y)` (R261). -/
def execIny (s : State) : Host.Outcome State Fault Refusal :=
  .next (impliedInstr 2 (fun t => (t.setY (t.y + 1)).setP (setNZ (t.y + 1) t.p)) s)

/-- DEX: `X <- (X - 1) & $FF; SetNZ(X)` (R262). -/
def execDex (s : State) : Host.Outcome State Fault Refusal :=
  .next (impliedInstr 2 (fun t => (t.setX (t.x - 1)).setP (setNZ (t.x - 1) t.p)) s)

/-- DEY: `Y <- (Y - 1) & $FF; SetNZ(Y)` (R263). -/
def execDey (s : State) : Host.Outcome State Fault Refusal :=
  .next (impliedInstr 2 (fun t => (t.setY (t.y - 1)).setP (setNZ (t.y - 1) t.p)) s)

end Sys2Proof.Machine
end

