-- ==== Sys2Proof/Machine/BitOps.lean ====
section
/-! DEFINITION. The Rockwell bit instructions (44_bit_ops.md R300 to R338). -/

namespace Sys2Proof.Machine

/-! ## Reset a bit -/

/-- RMB0: `f(v) = v & $FE` (R301). -/
def execRmb0 (zz : Byte) (s : State) : Host.Outcome State Fault Refusal :=
  .next (bitModifyInstr zz (fun v => v &&& 0xFE#8) s)

/-- RMB1: `f(v) = v & $FD` (R302). -/
def execRmb1 (zz : Byte) (s : State) : Host.Outcome State Fault Refusal :=
  .next (bitModifyInstr zz (fun v => v &&& 0xFD#8) s)

/-- RMB2: `f(v) = v & $FB` (R303). -/
def execRmb2 (zz : Byte) (s : State) : Host.Outcome State Fault Refusal :=
  .next (bitModifyInstr zz (fun v => v &&& 0xFB#8) s)

/-- RMB3: `f(v) = v & $F7` (R304). -/
def execRmb3 (zz : Byte) (s : State) : Host.Outcome State Fault Refusal :=
  .next (bitModifyInstr zz (fun v => v &&& 0xF7#8) s)

/-- RMB4: `f(v) = v & $EF` (R305). -/
def execRmb4 (zz : Byte) (s : State) : Host.Outcome State Fault Refusal :=
  .next (bitModifyInstr zz (fun v => v &&& 0xEF#8) s)

/-- RMB5: `f(v) = v & $DF` (R306). -/
def execRmb5 (zz : Byte) (s : State) : Host.Outcome State Fault Refusal :=
  .next (bitModifyInstr zz (fun v => v &&& 0xDF#8) s)

/-- RMB6: `f(v) = v & $BF` (R307). -/
def execRmb6 (zz : Byte) (s : State) : Host.Outcome State Fault Refusal :=
  .next (bitModifyInstr zz (fun v => v &&& 0xBF#8) s)

/-- RMB7: `f(v) = v & $7F` (R308). -/
def execRmb7 (zz : Byte) (s : State) : Host.Outcome State Fault Refusal :=
  .next (bitModifyInstr zz (fun v => v &&& 0x7F#8) s)

/-! ## Set a bit -/

/-- SMB0: `f(v) = v | $01` (R311). -/
def execSmb0 (zz : Byte) (s : State) : Host.Outcome State Fault Refusal :=
  .next (bitModifyInstr zz (fun v => v ||| 0x01#8) s)

/-- SMB1: `f(v) = v | $02` (R312). -/
def execSmb1 (zz : Byte) (s : State) : Host.Outcome State Fault Refusal :=
  .next (bitModifyInstr zz (fun v => v ||| 0x02#8) s)

/-- SMB2: `f(v) = v | $04` (R313). -/
def execSmb2 (zz : Byte) (s : State) : Host.Outcome State Fault Refusal :=
  .next (bitModifyInstr zz (fun v => v ||| 0x04#8) s)

/-- SMB3: `f(v) = v | $08` (R314). -/
def execSmb3 (zz : Byte) (s : State) : Host.Outcome State Fault Refusal :=
  .next (bitModifyInstr zz (fun v => v ||| 0x08#8) s)

/-- SMB4: `f(v) = v | $10` (R315). -/
def execSmb4 (zz : Byte) (s : State) : Host.Outcome State Fault Refusal :=
  .next (bitModifyInstr zz (fun v => v ||| 0x10#8) s)

/-- SMB5: `f(v) = v | $20` (R316). -/
def execSmb5 (zz : Byte) (s : State) : Host.Outcome State Fault Refusal :=
  .next (bitModifyInstr zz (fun v => v ||| 0x20#8) s)

/-- SMB6: `f(v) = v | $40` (R317). -/
def execSmb6 (zz : Byte) (s : State) : Host.Outcome State Fault Refusal :=
  .next (bitModifyInstr zz (fun v => v ||| 0x40#8) s)

/-- SMB7: `f(v) = v | $80` (R318). -/
def execSmb7 (zz : Byte) (s : State) : Host.Outcome State Fault Refusal :=
  .next (bitModifyInstr zz (fun v => v ||| 0x80#8) s)

/-! ## Branch on a bit reset -/

/-- BBR0: branch if bit 0 of the byte at `zz` is 0 (R321). -/
def execBbr0 (zz rr : Byte) (s : State) : Host.Outcome State Fault Refusal :=
  .next (bitBranchInstr 0 false zz rr s)

/-- BBR1: branch if bit 1 of the byte at `zz` is 0 (R322). -/
def execBbr1 (zz rr : Byte) (s : State) : Host.Outcome State Fault Refusal :=
  .next (bitBranchInstr 1 false zz rr s)

/-- BBR2: branch if bit 2 of the byte at `zz` is 0 (R323). -/
def execBbr2 (zz rr : Byte) (s : State) : Host.Outcome State Fault Refusal :=
  .next (bitBranchInstr 2 false zz rr s)

/-- BBR3: branch if bit 3 of the byte at `zz` is 0 (R324). -/
def execBbr3 (zz rr : Byte) (s : State) : Host.Outcome State Fault Refusal :=
  .next (bitBranchInstr 3 false zz rr s)

/-- BBR4: branch if bit 4 of the byte at `zz` is 0 (R325). -/
def execBbr4 (zz rr : Byte) (s : State) : Host.Outcome State Fault Refusal :=
  .next (bitBranchInstr 4 false zz rr s)

/-- BBR5: branch if bit 5 of the byte at `zz` is 0 (R326). -/
def execBbr5 (zz rr : Byte) (s : State) : Host.Outcome State Fault Refusal :=
  .next (bitBranchInstr 5 false zz rr s)

/-- BBR6: branch if bit 6 of the byte at `zz` is 0 (R327). -/
def execBbr6 (zz rr : Byte) (s : State) : Host.Outcome State Fault Refusal :=
  .next (bitBranchInstr 6 false zz rr s)

/-- BBR7: branch if bit 7 of the byte at `zz` is 0 (R328). -/
def execBbr7 (zz rr : Byte) (s : State) : Host.Outcome State Fault Refusal :=
  .next (bitBranchInstr 7 false zz rr s)

/-! ## Branch on a bit set -/

/-- BBS0: branch if bit 0 of the byte at `zz` is 1 (R331). -/
def execBbs0 (zz rr : Byte) (s : State) : Host.Outcome State Fault Refusal :=
  .next (bitBranchInstr 0 true zz rr s)

/-- BBS1: branch if bit 1 of the byte at `zz` is 1 (R332). -/
def execBbs1 (zz rr : Byte) (s : State) : Host.Outcome State Fault Refusal :=
  .next (bitBranchInstr 1 true zz rr s)

/-- BBS2: branch if bit 2 of the byte at `zz` is 1 (R333). -/
def execBbs2 (zz rr : Byte) (s : State) : Host.Outcome State Fault Refusal :=
  .next (bitBranchInstr 2 true zz rr s)

/-- BBS3: branch if bit 3 of the byte at `zz` is 1 (R334). -/
def execBbs3 (zz rr : Byte) (s : State) : Host.Outcome State Fault Refusal :=
  .next (bitBranchInstr 3 true zz rr s)

/-- BBS4: branch if bit 4 of the byte at `zz` is 1 (R335). -/
def execBbs4 (zz rr : Byte) (s : State) : Host.Outcome State Fault Refusal :=
  .next (bitBranchInstr 4 true zz rr s)

/-- BBS5: branch if bit 5 of the byte at `zz` is 1 (R336). -/
def execBbs5 (zz rr : Byte) (s : State) : Host.Outcome State Fault Refusal :=
  .next (bitBranchInstr 5 true zz rr s)

/-- BBS6: branch if bit 6 of the byte at `zz` is 1 (R337). -/
def execBbs6 (zz rr : Byte) (s : State) : Host.Outcome State Fault Refusal :=
  .next (bitBranchInstr 6 true zz rr s)

/-- BBS7: branch if bit 7 of the byte at `zz` is 1 (R338). -/
def execBbs7 (zz rr : Byte) (s : State) : Host.Outcome State Fault Refusal :=
  .next (bitBranchInstr 7 true zz rr s)

end Sys2Proof.Machine
end

