-- ==== Sys2Proof/Machine/Control.lean ====
section
/-! DEFINITION. Branches, jumps, subroutines, RTI and the trap instruction (45_control.md R340 to R366). -/

namespace Sys2Proof.Machine

/-! ## Branches -/

/-- BPL: branch if N = 0 (R341). -/
def execBpl (rr : Byte) (s : State) : Host.Outcome State Fault Refusal :=
  .next (branchInstr (!s.p.n) rr s)

/-- BMI: branch if N = 1 (R342). -/
def execBmi (rr : Byte) (s : State) : Host.Outcome State Fault Refusal :=
  .next (branchInstr s.p.n rr s)

/-- BVC: branch if V = 0 (R343). -/
def execBvc (rr : Byte) (s : State) : Host.Outcome State Fault Refusal :=
  .next (branchInstr (!s.p.v) rr s)

/-- BVS: branch if V = 1 (R344). -/
def execBvs (rr : Byte) (s : State) : Host.Outcome State Fault Refusal :=
  .next (branchInstr s.p.v rr s)

/-- BCC: branch if C = 0 (R345). -/
def execBcc (rr : Byte) (s : State) : Host.Outcome State Fault Refusal :=
  .next (branchInstr (!s.p.c) rr s)

/-- BCS: branch if C = 1 (R346). -/
def execBcs (rr : Byte) (s : State) : Host.Outcome State Fault Refusal :=
  .next (branchInstr s.p.c rr s)

/-- BNE: branch if Z = 0 (R347). -/
def execBne (rr : Byte) (s : State) : Host.Outcome State Fault Refusal :=
  .next (branchInstr (!s.p.z) rr s)

/-- BEQ: branch if Z = 1 (R348). -/
def execBeq (rr : Byte) (s : State) : Host.Outcome State Fault Refusal :=
  .next (branchInstr s.p.z rr s)

/-- BRA: branch always (R349). -/
def execBra (rr : Byte) (s : State) : Host.Outcome State Fault Refusal :=
  .next (branchInstr true rr s)

/-! ## Jumps and subroutines -/

/-- JMP: `PC <- w`, `PC <- Read16(w)`, or `PC <- Read16(w + X)` (R350). -/
def execJmp (m : JmpMode) (s : State) : Host.Outcome State Fault Refusal :=
  match m with
  | .abs w => .next (s.retire w 3)
  | .ind w => .next ((read16 w s).2.retire (read16 w s).1 6)
  | .iax w => .next ((read16 (w + s.x.setWidth 16) s).2.retire (read16 (w + s.x.setWidth 16) s).1 6)

/-- JSR: `r <- PC + 2; Push(r[15:8]); Push(r[7:0]); PC <- w` (R353). -/
def execJsr (w : Addr) (s : State) : Host.Outcome State Fault Refusal :=
  .next ((push (lowByte (s.pc + 2)) (push (highByte (s.pc + 2)) s)).retire w 6)

/-- RTS: `lo <- Pull(); hi <- Pull(); PC <- (hi:lo) + 1` (R354). -/
def execRts (s : State) : Host.Outcome State Fault Refusal :=
  let lo := pull s
  let hi := pull lo.2
  .next (hi.2.retire (wordOf lo.1 hi.1 + 1) 6)

/-- RTI: the return from an interrupt (R355). -/
def execRti (s : State) : Host.Outcome State Fault Refusal :=
  .next ((returnFromInterrupt s).charge 6)

/-! ## The trap instruction -/

/-- BRK, the trap opcode $00 (R366): a registered callback runs with PC already past the two bytes; with none, the
instruction is a logged two-byte NOP (`Nop2`) or the software interrupt through $FFFE (`Interrupt`). -/
def execBrk (t : Byte) (s : State) : Host.Outcome State Fault Refusal :=
  match lookupTrap s.trapTable t with
  | some handler => .next ((callTrap handler (s.setPc (s.pc + 2))).charge s.cfg.trapCycles.toNat)
  | none =>
    match s.cfg.untrappedBrk with
    | .nop2 => .next ((s.logFault s.pc 0x00#8).retire (s.pc + 2) 2)
    | .interrupt => .next ((enterInterrupt irqVector true (s.setPc (s.pc + 2))).charge 7)

end Sys2Proof.Machine
end

