-- ==== Sys2Proof/Machine/FlagNop.lean ====
section
/-! DEFINITION. The flag instructions, NOP and the undefined opcodes (46_flags_nop.md R380 to R391). -/

namespace Sys2Proof.Machine

/-! ## Flag instructions -/

/-- CLC: `P.C <- 0` (R380). -/
def execClc (s : State) : Host.Outcome State Fault Refusal :=
  .next (impliedInstr 2 (fun t => t.setP { t.p with c := false }) s)

/-- SEC: `P.C <- 1` (R381). -/
def execSec (s : State) : Host.Outcome State Fault Refusal :=
  .next (impliedInstr 2 (fun t => t.setP { t.p with c := true }) s)

/-- CLI: `P.I <- 0` (R382). -/
def execCli (s : State) : Host.Outcome State Fault Refusal :=
  .next (impliedInstr 2 (fun t => t.setP { t.p with i := false }) s)

/-- SEI: `P.I <- 1` (R383). -/
def execSei (s : State) : Host.Outcome State Fault Refusal :=
  .next (impliedInstr 2 (fun t => t.setP { t.p with i := true }) s)

/-- CLD: `P.D <- 0` (R384). -/
def execCld (s : State) : Host.Outcome State Fault Refusal :=
  .next (impliedInstr 2 (fun t => t.setP { t.p with d := false }) s)

/-- SED: `P.D <- 1` (R385). -/
def execSed (s : State) : Host.Outcome State Fault Refusal :=
  .next (impliedInstr 2 (fun t => t.setP { t.p with d := true }) s)

/-- CLV: `P.V <- 0` (R386). -/
def execClv (s : State) : Host.Outcome State Fault Refusal :=
  .next (impliedInstr 2 (fun t => t.setP { t.p with v := false }) s)

/-! ## NOP -/

/-- NOP: only PC and the cycle counters (R387). -/
def execNop (s : State) : Host.Outcome State Fault Refusal :=
  .next (impliedInstr 2 (fun t => t) s)

/-! ## Undefined opcodes -/

/-- The first operand byte of an undefined opcode, 0 when it has none. -/
def undefLow : UndefOperand → Byte
  | .none => 0#8
  | .one b1 => b1
  | .two b1 _ => b1

/-- The second operand byte of an undefined opcode, 0 when it has none. -/
def undefHigh : UndefOperand → Byte
  | .two _ b2 => b2
  | _ => 0#8

/-- The discarded read of an undefined opcode under `Wdc`, with the side effects of its address (R391). -/
def wdcAccess (op : Byte) (operand : UndefOperand) (s : State) : State :=
  match wdcForm op with
  | .imp => s
  | .imm => s
  | .zp => (busRead (zeroPage (undefLow operand)) s).2
  | .zpx => (busRead (zeroPage (undefLow operand + s.x)) s).2
  | .abs => (busRead (wordOf (undefLow operand) (undefHigh operand)) s).2

/-- The length of an undefined opcode under `Wdc` (30_encoding.md R143). -/
def wdcLength (op : Byte) : Addr :=
  match wdcForm op with
  | .imp => 1
  | .imm => 2
  | .zp => 2
  | .zpx => 2
  | .abs => 3

/-- An undefined opcode: a logged two-byte NOP (`DocNop2`, R390), or a logged NOP of its own length, cycles and read
(`Wdc`, R391). -/
def execUndef (op : Byte) (operand : UndefOperand) (s : State) : Host.Outcome State Fault Refusal :=
  match s.cfg.undefPolicy with
  | .docNop2 => .next ((s.logFault s.pc op).retire (s.pc + 2) 2)
  | .wdc => .next (((wdcAccess op operand s).logFault s.pc op).retire (s.pc + wdcLength op) (wdcCycles op))

end Sys2Proof.Machine
end

