-- ==== Sys2Proof/Machine/LoadStore.lean ====
section
/-! DEFINITION. The loads and stores (40_load_store.md R200 to R206). -/

namespace Sys2Proof.Machine

/-! ## Loads -/

/-- LDA: `v <- Load(); A <- v; SetNZ(v)` (R200). -/
def execLda (m : Src) (s : State) : Host.Outcome State Fault Refusal :=
  .next (readInstr m 0 (fun v t => (t.setA v).setP (setNZ v t.p)) s)

/-- LDX: `v <- Load(); X <- v; SetNZ(v)` (R201). -/
def execLdx (m : Src) (s : State) : Host.Outcome State Fault Refusal :=
  .next (readInstr m 0 (fun v t => (t.setX v).setP (setNZ v t.p)) s)

/-- LDY: `v <- Load(); Y <- v; SetNZ(v)` (R202). -/
def execLdy (m : Src) (s : State) : Host.Outcome State Fault Refusal :=
  .next (readInstr m 0 (fun v t => (t.setY v).setP (setNZ v t.p)) s)

/-! ## Stores -/

/-- STA: `Store(A)` (R203). -/
def execSta (m : MemMode) (s : State) : Host.Outcome State Fault Refusal :=
  .next (storeInstr m s.a s)

/-- STX: `Store(X)` (R204). -/
def execStx (m : MemMode) (s : State) : Host.Outcome State Fault Refusal :=
  .next (storeInstr m s.x s)

/-- STY: `Store(Y)` (R205). -/
def execSty (m : MemMode) (s : State) : Host.Outcome State Fault Refusal :=
  .next (storeInstr m s.y s)

/-- STZ: `Store($00)` (R206). -/
def execStz (m : MemMode) (s : State) : Host.Outcome State Fault Refusal :=
  .next (storeInstr m 0#8 s)

end Sys2Proof.Machine
end

