-- ==== Sys2Proof/Machine/LogicShift.lean ====
section
/-! DEFINITION. Logic, bit test, shifts and rotates (43_logic_shift.md R280 to R289). -/

namespace Sys2Proof.Machine

/-! ## Logic -/

/-- AND: `A <- A & Load(); SetNZ(A)` (R280). -/
def execAnd (m : Src) (s : State) : Host.Outcome State Fault Refusal :=
  .next (readInstr m 0 (fun v t => (t.setA (t.a &&& v)).setP (setNZ (t.a &&& v) t.p)) s)

/-- ORA: `A <- A | Load(); SetNZ(A)` (R281). -/
def execOra (m : Src) (s : State) : Host.Outcome State Fault Refusal :=
  .next (readInstr m 0 (fun v t => (t.setA (t.a ||| v)).setP (setNZ (t.a ||| v) t.p)) s)

/-- EOR: `A <- A ^ Load(); SetNZ(A)` (R282). -/
def execEor (m : Src) (s : State) : Host.Outcome State Fault Refusal :=
  .next (readInstr m 0 (fun v t => (t.setA (t.a ^^^ v)).setP (setNZ (t.a ^^^ v) t.p)) s)

/-- BIT: Z, and N and V in the memory forms (R283). -/
def execBit (m : Src) (s : State) : Host.Outcome State Fault Refusal :=
  .next (readInstr m 0 (fun v t => t.setP (bitFlags m t.a v t.p)) s)

/-- TSB: Z from `A & v`, then `v | A` written (R288). -/
def execTsb (m : TestMode) (s : State) : Host.Outcome State Fault Refusal :=
  .next (testInstr m (fun a v => v ||| a) s)

/-- TRB: Z from `A & v`, then `v & ~A` written (R289). -/
def execTrb (m : TestMode) (s : State) : Host.Outcome State Fault Refusal :=
  .next (testInstr m (fun a v => v &&& ~~~a) s)

/-! ## Shifts and rotates -/

/-- ASL of memory or A (R284). -/
def execAsl (m : RmwMode) (s : State) : Host.Outcome State Fault Refusal :=
  .next (modifyInstr m shiftCycles aslByte s)

/-- LSR of memory or A (R285). -/
def execLsr (m : RmwMode) (s : State) : Host.Outcome State Fault Refusal :=
  .next (modifyInstr m shiftCycles lsrByte s)

/-- ROL of memory or A (R286). -/
def execRol (m : RmwMode) (s : State) : Host.Outcome State Fault Refusal :=
  .next (modifyInstr m shiftCycles rolByte s)

/-- ROR of memory or A (R287). -/
def execRor (m : RmwMode) (s : State) : Host.Outcome State Fault Refusal :=
  .next (modifyInstr m shiftCycles rorByte s)

end Sys2Proof.Machine
end

