-- ==== Sys2Proof/Machine/TransferStack.lean ====
section
/-! DEFINITION. The register transfers and stack operations (41_transfer_stack.md R220 to R233). -/

namespace Sys2Proof.Machine

/-! ## Transfers -/

/-- TAX: `X <- A; SetNZ(X)` (R220). -/
def execTax (s : State) : Host.Outcome State Fault Refusal :=
  .next (impliedInstr 2 (fun t => (t.setX t.a).setP (setNZ t.a t.p)) s)

/-- TAY: `Y <- A; SetNZ(Y)` (R221). -/
def execTay (s : State) : Host.Outcome State Fault Refusal :=
  .next (impliedInstr 2 (fun t => (t.setY t.a).setP (setNZ t.a t.p)) s)

/-- TXA: `A <- X; SetNZ(A)` (R222). -/
def execTxa (s : State) : Host.Outcome State Fault Refusal :=
  .next (impliedInstr 2 (fun t => (t.setA t.x).setP (setNZ t.x t.p)) s)

/-- TYA: `A <- Y; SetNZ(A)` (R223). -/
def execTya (s : State) : Host.Outcome State Fault Refusal :=
  .next (impliedInstr 2 (fun t => (t.setA t.y).setP (setNZ t.y t.p)) s)

/-- TSX: `X <- S; SetNZ(X)` (R224). -/
def execTsx (s : State) : Host.Outcome State Fault Refusal :=
  .next (impliedInstr 2 (fun t => (t.setX t.sp).setP (setNZ t.sp t.p)) s)

/-- TXS: `S <- X`, no flag (R225). -/
def execTxs (s : State) : Host.Outcome State Fault Refusal :=
  .next (impliedInstr 2 (fun t => t.setSp t.x) s)

/-! ## Pushes -/

/-- PHA: `Push(A)` (R226). -/
def execPha (s : State) : Host.Outcome State Fault Refusal :=
  .next (impliedInstr 3 (fun t => push t.a t) s)

/-- PHP: `Push(PackP(1))` (R227). -/
def execPhp (s : State) : Host.Outcome State Fault Refusal :=
  .next (impliedInstr 3 (fun t => push (packP t.p true) t) s)

/-- PHX: `Push(X)` (R228). -/
def execPhx (s : State) : Host.Outcome State Fault Refusal :=
  .next (impliedInstr 3 (fun t => push t.x t) s)

/-- PHY: `Push(Y)` (R229). -/
def execPhy (s : State) : Host.Outcome State Fault Refusal :=
  .next (impliedInstr 3 (fun t => push t.y t) s)

/-! ## Pulls -/

/-- `R <- Pull(); SetNZ(R)`, the register named by how it is set (R230, R232, R233). -/
def pullInto (setReg : State → Byte → State) (s : State) : State :=
  (setReg (pull s).2 (pull s).1).setP (setNZ (pull s).1 s.p)

/-- PLA: `A <- Pull(); SetNZ(A)` (R230). -/
def execPla (s : State) : Host.Outcome State Fault Refusal :=
  .next (impliedInstr 4 (pullInto State.setA) s)

/-- PLX: `X <- Pull(); SetNZ(X)` (R232). -/
def execPlx (s : State) : Host.Outcome State Fault Refusal :=
  .next (impliedInstr 4 (pullInto State.setX) s)

/-- PLY: `Y <- Pull(); SetNZ(Y)` (R233). -/
def execPly (s : State) : Host.Outcome State Fault Refusal :=
  .next (impliedInstr 4 (pullInto State.setY) s)

/-- PLP: `UnpackP(Pull())` (R231). -/
def execPlp (s : State) : Host.Outcome State Fault Refusal :=
  .next (impliedInstr 4 (fun t => (pull t).2.setP (unpackP (pull t).1)) s)

end Sys2Proof.Machine
end

