-- ==== Sys2Proof/Machine/Dispatch.lean ====
section
/-! DEFINITION. The dispatch from an instruction to its meaning, one arm per constructor of `Instr`. -/

namespace Sys2Proof.Machine

/-- What executing an instruction does, PC holding the address of its opcode byte and its bytes fetched. -/
def exec (i : Instr) (s : State) : Host.Outcome State Fault Refusal :=
  match i with
  -- 40_load_store.md
  | .lda m => Sys2Proof.Machine.execLda m s
  | .ldx m => Sys2Proof.Machine.execLdx m s
  | .ldy m => Sys2Proof.Machine.execLdy m s
  | .sta m => Sys2Proof.Machine.execSta m s
  | .stx m => Sys2Proof.Machine.execStx m s
  | .sty m => Sys2Proof.Machine.execSty m s
  | .stz m => Sys2Proof.Machine.execStz m s
  -- 41_transfer_stack.md
  | .tax => Sys2Proof.Machine.execTax s
  | .tay => Sys2Proof.Machine.execTay s
  | .txa => Sys2Proof.Machine.execTxa s
  | .tya => Sys2Proof.Machine.execTya s
  | .tsx => Sys2Proof.Machine.execTsx s
  | .txs => Sys2Proof.Machine.execTxs s
  | .pha => Sys2Proof.Machine.execPha s
  | .php => Sys2Proof.Machine.execPhp s
  | .phx => Sys2Proof.Machine.execPhx s
  | .phy => Sys2Proof.Machine.execPhy s
  | .pla => Sys2Proof.Machine.execPla s
  | .plp => Sys2Proof.Machine.execPlp s
  | .plx => Sys2Proof.Machine.execPlx s
  | .ply => Sys2Proof.Machine.execPly s
  -- 42_arithmetic.md
  | .adc m => Sys2Proof.Machine.execAdc m s
  | .sbc m => Sys2Proof.Machine.execSbc m s
  | .cmp m => Sys2Proof.Machine.execCmp m s
  | .cpx m => Sys2Proof.Machine.execCpx m s
  | .cpy m => Sys2Proof.Machine.execCpy m s
  | .inc m => Sys2Proof.Machine.execInc m s
  | .dec m => Sys2Proof.Machine.execDec m s
  | .inx => Sys2Proof.Machine.execInx s
  | .iny => Sys2Proof.Machine.execIny s
  | .dex => Sys2Proof.Machine.execDex s
  | .dey => Sys2Proof.Machine.execDey s
  -- 43_logic_shift.md
  | .and m => Sys2Proof.Machine.execAnd m s
  | .ora m => Sys2Proof.Machine.execOra m s
  | .eor m => Sys2Proof.Machine.execEor m s
  | .bit m => Sys2Proof.Machine.execBit m s
  | .tsb m => Sys2Proof.Machine.execTsb m s
  | .trb m => Sys2Proof.Machine.execTrb m s
  | .asl m => Sys2Proof.Machine.execAsl m s
  | .lsr m => Sys2Proof.Machine.execLsr m s
  | .rol m => Sys2Proof.Machine.execRol m s
  | .ror m => Sys2Proof.Machine.execRor m s
  -- 44_bit_ops.md
  | .rmb0 zz => Sys2Proof.Machine.execRmb0 zz s
  | .rmb1 zz => Sys2Proof.Machine.execRmb1 zz s
  | .rmb2 zz => Sys2Proof.Machine.execRmb2 zz s
  | .rmb3 zz => Sys2Proof.Machine.execRmb3 zz s
  | .rmb4 zz => Sys2Proof.Machine.execRmb4 zz s
  | .rmb5 zz => Sys2Proof.Machine.execRmb5 zz s
  | .rmb6 zz => Sys2Proof.Machine.execRmb6 zz s
  | .rmb7 zz => Sys2Proof.Machine.execRmb7 zz s
  | .smb0 zz => Sys2Proof.Machine.execSmb0 zz s
  | .smb1 zz => Sys2Proof.Machine.execSmb1 zz s
  | .smb2 zz => Sys2Proof.Machine.execSmb2 zz s
  | .smb3 zz => Sys2Proof.Machine.execSmb3 zz s
  | .smb4 zz => Sys2Proof.Machine.execSmb4 zz s
  | .smb5 zz => Sys2Proof.Machine.execSmb5 zz s
  | .smb6 zz => Sys2Proof.Machine.execSmb6 zz s
  | .smb7 zz => Sys2Proof.Machine.execSmb7 zz s
  | .bbr0 zz rr => Sys2Proof.Machine.execBbr0 zz rr s
  | .bbr1 zz rr => Sys2Proof.Machine.execBbr1 zz rr s
  | .bbr2 zz rr => Sys2Proof.Machine.execBbr2 zz rr s
  | .bbr3 zz rr => Sys2Proof.Machine.execBbr3 zz rr s
  | .bbr4 zz rr => Sys2Proof.Machine.execBbr4 zz rr s
  | .bbr5 zz rr => Sys2Proof.Machine.execBbr5 zz rr s
  | .bbr6 zz rr => Sys2Proof.Machine.execBbr6 zz rr s
  | .bbr7 zz rr => Sys2Proof.Machine.execBbr7 zz rr s
  | .bbs0 zz rr => Sys2Proof.Machine.execBbs0 zz rr s
  | .bbs1 zz rr => Sys2Proof.Machine.execBbs1 zz rr s
  | .bbs2 zz rr => Sys2Proof.Machine.execBbs2 zz rr s
  | .bbs3 zz rr => Sys2Proof.Machine.execBbs3 zz rr s
  | .bbs4 zz rr => Sys2Proof.Machine.execBbs4 zz rr s
  | .bbs5 zz rr => Sys2Proof.Machine.execBbs5 zz rr s
  | .bbs6 zz rr => Sys2Proof.Machine.execBbs6 zz rr s
  | .bbs7 zz rr => Sys2Proof.Machine.execBbs7 zz rr s
  -- 45_control.md
  | .bpl rr => Sys2Proof.Machine.execBpl rr s
  | .bmi rr => Sys2Proof.Machine.execBmi rr s
  | .bvc rr => Sys2Proof.Machine.execBvc rr s
  | .bvs rr => Sys2Proof.Machine.execBvs rr s
  | .bcc rr => Sys2Proof.Machine.execBcc rr s
  | .bcs rr => Sys2Proof.Machine.execBcs rr s
  | .bne rr => Sys2Proof.Machine.execBne rr s
  | .beq rr => Sys2Proof.Machine.execBeq rr s
  | .bra rr => Sys2Proof.Machine.execBra rr s
  | .jmp m => Sys2Proof.Machine.execJmp m s
  | .jsr w => Sys2Proof.Machine.execJsr w s
  | .rts => Sys2Proof.Machine.execRts s
  | .rti => Sys2Proof.Machine.execRti s
  | .brk t => Sys2Proof.Machine.execBrk t s
  -- 46_flags_nop.md
  | .clc => Sys2Proof.Machine.execClc s
  | .sec => Sys2Proof.Machine.execSec s
  | .cli => Sys2Proof.Machine.execCli s
  | .sei => Sys2Proof.Machine.execSei s
  | .cld => Sys2Proof.Machine.execCld s
  | .sed => Sys2Proof.Machine.execSed s
  | .clv => Sys2Proof.Machine.execClv s
  | .nop => Sys2Proof.Machine.execNop s
  | .undef op operand => Sys2Proof.Machine.execUndef op operand s

end Sys2Proof.Machine
end

