-- ==== Sys2Proof/Machine/Fetch.lean ====
section
/-! DEFINITION. Fetching an instruction: the opcode byte and as many operand bytes as its length has, each through the
bus with its side effects (40_load_store.md R196, 20_memory.md R110). -/

namespace Sys2Proof.Machine

/-- The first operand byte, when the instruction has one; else 0 and no access. -/
def fetchByte1 (c : Params) (op : Byte) (pc : Addr) (s : State) : Byte × State :=
  if opcodeLength c op ≥ 2 then busRead (pc + 1) s else (0#8, s)

/-- The second operand byte, when the instruction has one; else 0 and no access. -/
def fetchByte2 (c : Params) (op : Byte) (pc : Addr) (s : State) : Byte × State :=
  if opcodeLength c op ≥ 3 then busRead (pc + 2) s else (0#8, s)

/-- The instruction at PC, and the state after the fetch; PC still holds the address of the opcode byte (10_state.md R34). -/
def fetch (s : State) : Instr × State :=
  let op := busRead s.pc s
  let b1 := fetchByte1 s.cfg op.1 s.pc op.2
  let b2 := fetchByte2 s.cfg op.1 s.pc b1.2
  (decodeBytes s.cfg op.1 b1.1 b2.1, b2.2)

/-- Where the host places an instruction to be run (the model's own): $0300, in RAM. -/
def loadAddr : Addr := 0x0300#16

/-- The state with three bytes in the RAM the fetch at `loadAddr` reads. -/
def placeBytes (b0 b1 b2 : Byte) (s : State) : State :=
  let s0 := s.setRam (s.bankOf loadAddr false) loadAddr.toNat b0
  let s1 := s0.setRam (s.bankOf (loadAddr + 1) false) (loadAddr + 1).toNat b1
  s1.setRam (s.bankOf (loadAddr + 2) false) (loadAddr + 2).toNat b2

/-- The state that runs a placed instruction next: the bytes in RAM, PC on them, and no interrupt taken before them. -/
def placeInstr (nbits w : Nat) (s : State) : State :=
  let bytes := tableBytes nbits w
  { placeBytes (bytes.getD 0 0) (bytes.getD 1 0) (bytes.getD 2 0) s with
    pc := loadAddr
    nmiPending := false
    irqLine := s.irqLine && s.p.i }

end Sys2Proof.Machine
end

