-- ==== Sys2Proof/Machine/Palette.lean ====
section
/-! DEFINITION. The colour tables `clut` and `clut_low` (62_video.md R530), and the one way a quotient the spec leaves
unrounded becomes an integer. -/

namespace Sys2Proof.Machine

/-- `n / d` as an integer: itself when it is one, else the integer below or above, as `up` says. -/
def roundQuotient (n d : Nat) (up : Bool) : Nat := n / d + if n % d = 0 then 0 else up.toNat

/-- Red, green and blue. -/
abbrev Rgb := Byte × Byte × Byte

/-- The palette a requested index selects: "a requested index ≥ 6 selects palette 0" (R530). -/
def selectedPalette (index : Nat) : Nat := if index ≥ 6 then 0 else index

/-- The palette in force: the selected one, and while the `monochrome` option is set, which changes the palette (R509), the
one the option makes of it, a free value (notes/assumptions/32.md). -/
def paletteInForce (monochrome : Bool) (index : Nat) : Nat :=
  if monochrome then (Config.monochromePalette (selectedPalette index)).val else selectedPalette index

/-- The amber palette: one of the other five. "Four colour palettes plus two monochrome (green, amber) are selectable by
index" (R530); which index is which "is not in the source" (95_test_vectors.md V12), a free value
(notes/assumptions/27.md). -/
def amberPalette : Nat := (Config.greenPalette.val + 1 + Config.amberOffset.val) % 6

/-- Is palette `p` shown in monochrome? The green and the amber one always are (R530), every palette while the `monochrome`
option is set (R509, notes/assumptions/32.md). -/
def showsMonochrome (monochrome : Bool) (p : Nat) : Bool :=
  monochrome || decide (p = Config.greenPalette.val) || decide (p = amberPalette)

/-- `PALETTE(p)`: OPEN "except index 0 black and 15 white" (R530). -/
def paletteColour (p i : Nat) : Rgb :=
  if i = 0 then (0#8, 0#8, 0#8) else if i = 15 then (255#8, 255#8, 255#8) else Config.paletteRgb p i

/-- Ten thousand times the luminance: `L = 0.2126·R + 0.7152·G + 0.0722·B` (R530). -/
def luminance (c : Rgb) : Nat := 2126 * c.1.toNat + 7152 * c.2.1.toNat + 722 * c.2.2.toNat

/-- One component of a monochrome palette: `b·L(c) / 255`, `b` that of the base hue and `lum` the luminance (R530). -/
def monoComponent (b : Byte) (lum : Nat) (up : Bool) : Byte := BitVec.ofNat 8 (roundQuotient (b.toNat * lum) 2550000 up)

/-- Colour `i` of `clut` with palette `p` in force: that of `PALETTE(p)`, and in monochrome the luminance of "each color"
scaled into the base hue (R530); whose colour that is, the spec leaves open (notes/assumptions/27.md). -/
def clutColour (mono : Bool) (p i : Nat) : Rgb :=
  if mono then
    let lum := luminance (paletteColour (Config.monoSource p).val i)
    let hue := Config.monoHue p
    (monoComponent hue.1 lum (Config.monoRoundsUp p i 0), monoComponent hue.2.1 lum (Config.monoRoundsUp p i 1),
      monoComponent hue.2.2 lum (Config.monoRoundsUp p i 2))
  else paletteColour p i

/-- The greatest component, V of HSV. -/
def Rgb.top (c : Rgb) : Nat := max c.1.toNat (max c.2.1.toNat c.2.2.toNat)

/-- One component `v` of a dimmed colour whose greatest component is `top`: V halved in monochrome, else
saturation and value scaled by 0.75 (R530). With the hue kept, `v = V·(1 − S·f)` becomes
`0.75·V·(1 − 0.75·S·f) = (3·top + 9·v) / 16`. -/
def dimComponent (mono : Bool) (top : Nat) (v : Byte) (up : Bool) : Byte :=
  BitVec.ofNat 8 (if mono then roundQuotient v.toNat 2 up else roundQuotient (3 * top + 9 * v.toNat) 16 up)

/-- Colour `i` of `clut_low` with palette `p` in force (R530). -/
def clutLowColour (mono : Bool) (p i : Nat) : Rgb :=
  let c := clutColour mono p i
  let dim := fun (v : Byte) (k : Nat) => dimComponent mono (Rgb.top c) v (Config.dimRoundsUp p i k)
  (dim c.1 0, dim c.2.1 1, dim c.2.2 2)

/-- `clut` for the options `monochrome` and `palette_index` (R530). -/
def paletteClut (monochrome : Bool) (index : Nat) : List Rgb :=
  let p := paletteInForce monochrome index
  (List.range 16).map (clutColour (showsMonochrome monochrome p) p)

/-- `clut_low` for the same options, the dimmed table (R530). -/
def paletteClutLow (monochrome : Bool) (index : Nat) : List Rgb :=
  let p := paletteInForce monochrome index
  (List.range 16).map (clutLowColour (showsMonochrome monochrome p) p)

end Sys2Proof.Machine
end

