-- ==== Sys2Proof/Machine/Timers.lean ====
section
/-! DEFINITION. What is clocked after each instruction: the timer wheel with the VBL callback, and the Disk II sequencer
(61_timers.md). -/

namespace Sys2Proof.Machine

/-- `k · speed` as an integer: exactly `k` for speed 1.0, and for another speed rounded down or up, as a free value says,
when it is no integer (61_timers.md R458). -/
def speedCycles (sp : Speed) (k : Nat) : Nat :=
  let d := sp.denLess1 + 1
  k + roundQuotient (k * sp.extraNum) d (Config.speedRoundsUp (k * sp.extraNum) d)

/-- The VBL callback: the value that replaces `remaining`, and the state (61_timers.md R461). -/
def vblCallback (s : State) : BitVec 64 × State :=
  match s.video.vblPhase with
  | .visible =>
    (BitVec.ofNat 64 Config.vblBlank,
     { s with
       sw := { s.sw with vbl := true }
       video := { s.video with vblPhase := .blanking, frameCount := s.video.frameCount + 1 } })
  | .blanking =>
    (BitVec.ofNat 64 Config.vblVisible,
     { s with
       sw := { s.sw with vbl := false }
       video := { s.video with vblPhase := .visible, line := 0 } })

/-- A host callback: what it does is a free value (61_timers.md R456). It may request an NMI and never withdraws one
(60_exceptions.md R411). -/
def hostTimerCallback (id : Nat) (s : State) : BitVec 64 × State :=
  let e := Config.timerCallback id s.draws s
  (e.remaining,
   { s with
     instructionRun := if e.preempt then 0 else s.instructionRun
     irqLine := e.irqLine
     nmiPending := s.nmiPending || e.raiseNmi
     draws := s.draws + 1 })

/-- A timer's callback. -/
def runCallback (cb : TimerCallback) (s : State) : BitVec 64 × State :=
  match cb with
  | .vbl => vblCallback s
  | .host id => hostTimerCallback id s

/-- `TimerStep(k)` for one timer: a timer at 0 is skipped; else its `remaining` falls by `k · speed`, and at 0 or below
the callback's value replaces it (61_timers.md R456). -/
def stepTimer (k : Nat) (t : Timer) (s : State) : Timer × State :=
  if t.remaining = 0#64 then (t, s)
  else if t.remaining.toInt - speedCycles s.speed k ≤ 0 then
    ({ t with remaining := (runCallback t.callback s).1 }, (runCallback t.callback s).2)
  else ({ t with remaining := BitVec.ofInt 64 (t.remaining.toInt - speedCycles s.speed k) }, s)

/-- The timers of a list, in registration order. -/
def stepTimers (k : Nat) : List Timer → State → List Timer × State
  | [], s => ([], s)
  | t :: rest, s =>
    let r := stepTimer k t s
    let q := stepTimers k rest r.2
    (r.1 :: q.1, q.2)

/-- `TimerStep(k)` (61_timers.md R456). The new list is stored at the end: that a host callback is given the state with the
list as it stood before the step, earlier timers' and its own decrement not yet in it, is a DESIGN CHOICE
(notes/assumptions/39.md). -/
def timerStep (k : Nat) (s : State) : State :=
  let r := stepTimers k s.timers s
  { r.2 with timers := r.1 }

/-- `DiskStep(k)` (64_disk_lss.md R605). -/
def diskStep (k : Nat) (s : State) : State :=
  { s with disk := (s.disk.run s.cfg k s.draws).1, draws := (s.disk.run s.cfg k s.draws).2 }

/-- What follows an instruction or interrupt entry of cost `k`: the sequencer steps, then the timers (61_timers.md R452, R453). -/
def deviceStep (k : Nat) (s : State) : State := timerStep k (diskStep k s)

/-- The cycles an iteration charged: `total_cycle` after less `total_cycle` before. -/
def charged (before after : State) : Nat := (after.totalCycle - before.totalCycle).toNat

end Sys2Proof.Machine
end

