-- ==== Sys2Proof/Machine/Loop.lean ====
section
/-! DEFINITION. One iteration of the run loop: the interrupt check, an interrupt entry or one instruction, then the
devices clocked by its cost (60_exceptions.md R410, 61_timers.md R452). -/

namespace Sys2Proof.Machine

/-- One instruction: fetched, then executed (40_load_store.md R196). -/
def runInstr (s : State) : Host.Outcome State Fault Refusal := exec (fetch s).1 (fetch s).2

/-- The interrupt check and exactly one of its three branches (60_exceptions.md R410). -/
def cpuStep (s : State) : Host.Outcome State Fault Refusal :=
  if s.nmiPending then
    .next ((enterInterrupt nmiVector false { s with nmiPending := false }).charge interruptCycles)
  else if s.irqLine && !s.p.i then
    .next ((enterInterrupt irqVector false s).charge interruptCycles)
  else runInstr s

/-- What an outcome of the processor becomes once the devices have run for its cost. -/
def afterCpu (s : State) : Host.Outcome State Fault Refusal → Host.Outcome State Fault Refusal
  | .next t => .next (deviceStep (charged s t) t)
  | .fault f => .fault f
  | .refused r => .refused r

/-- The loop body of `run_cycles` (61_timers.md R452). -/
def iteration (s : State) : Host.Outcome State Fault Refusal := afterCpu s (cpuStep s)

end Sys2Proof.Machine
end

