-- ==== Sys2Proof/Machine/Step.lean ====
section
/-! DEFINITION. The step of the machine, one iteration of the run loop, and how the host places an instruction. -/

namespace Sys2Proof.Machine

/-- One step: the body of `run_cycles` (61_timers.md R452). The loop's test, `cycle < n` and `instruction_run`, is the
host action `runCycles` of HostActions.lean. -/
def step (s : State) : Host.Outcome State Fault Refusal := iteration s

/-- The state with an instruction placed where `step` fetches next (notes/assumptions/4.md). -/
def State.withFetchWord (s : State) (nbits w : Nat) : State := placeInstr nbits w s

end Sys2Proof.Machine
end

