-- ==== Sys2Proof/Machine/Video.lean ====
section
/-! DEFINITION. The scanout renderer: guest memory to a 320×240 framebuffer of palette indices (62_video.md). -/

namespace Sys2Proof.Machine

/-- A pixel of a colour with `dim = 0`. -/
def plain (i : BitVec 4) : Pixel := ⟨i, false⟩

/-- Black, `(0, 0)`. -/
def blackPixel : Pixel := plain 0#4

/-- White on black, as a bit says: foreground 15, background 0 (R507). -/
def monoPixel (b : Bool) : Pixel := if b then plain 15#4 else blackPixel

/-! ## Mode selection (R504) -/

/-- `page2 <- (sw.80STORE == 1) ? 0 : sw.PAGE2` -/
def SoftSwitches.effectivePage2 (sw : SoftSwitches) : Bool := !sw.store80 && sw.page2

/-- `is_dhgr <- sw.DHIRES == 1 and (sw.80COL == 1 or an3_mode ∈ {1, 2})` -/
def SoftSwitches.isDhgr (sw : SoftSwitches) : Bool :=
  sw.dhires && (sw.col80 || decide (sw.an3Mode = 1#2) || decide (sw.an3Mode = 2#2))

/-- What a guest line shows. -/
inductive LineMode where
  | text40
  | text80
  | loRes
  | hgr
  | dhgr
  deriving DecidableEq, Repr

/-- `Text = Text80 if sw.80COL == 1 else Text40` -/
def SoftSwitches.textMode (sw : SoftSwitches) : LineMode := if sw.col80 then .text80 else .text40

/-- The mode of guest line `y`: text; or graphics, with text rows over lines 160 to 191 when MIXED (R504). -/
def SoftSwitches.lineMode (sw : SoftSwitches) (y : Nat) : LineMode :=
  if sw.text then sw.textMode
  else if sw.mixed && decide (y ≥ 160) then sw.textMode
  else if sw.hires then (if sw.isDhgr then .dhgr else .hgr)
  else .loRes

/-! ## Text and lo-res -/

/-- The address of text row `r`, column `c` (R505). -/
def textAddr (page2 : Bool) (r c : Nat) : Nat :=
  (if page2 then 0x0800 else 0x0400) + (r % 8) * 0x80 + (r / 8) * 0x28 + c

/-- The character code of a screen code: flashing codes move by ±$40 with `frame_count & $10` (R506). -/
def charCode (altCharset : Bool) (frameCount : BitVec 32) (b : Byte) : Byte :=
  if altCharset = false ∧ 0x40 ≤ b.toNat ∧ b.toNat ≤ 0x7F then
    (if frameCount.getLsbD 4 then b + 0x40#8 else b - 0x40#8)
  else b

/-- The glyph line of a screen code: bit `i` is `g_i` (R506). -/
def glyphLine (s : State) (b : Byte) (l : Nat) : Byte :=
  charGlyph s.cfg s.video.romBank (charCode s.sw.altCharset s.video.frameCount b) l

/-- A text or lo-res byte of a bank. -/
def textByte (s : State) (b : Bank) (r c : Nat) : Byte := Memory.read (s.ram b) (textAddr s.sw.effectivePage2 r c)

/-- Text40: 7 pixels per glyph and one black padding pixel (R507). -/
def text40Pixel (s : State) (y x : Nat) : Pixel :=
  if x % 8 = 7 then blackPixel
  else monoPixel ((glyphLine s (textByte s .main (y / 8) (x / 8)) (y % 8)).getLsbD (x % 8))

/-- Text80: character `j = x / 4`, aux byte first, bits OR-reduced to `(g0|g1, g2|g3, g4|g5, g6)` (R508). -/
def text80Pixel (s : State) (y x : Nat) : Pixel :=
  let bank := if x / 4 % 2 = 0 then Bank.aux else Bank.main
  let g := glyphLine s (textByte s bank (y / 8) (x / 8)) (y % 8)
  if x % 4 = 3 then monoPixel (g.getLsbD 6)
  else monoPixel (g.getLsbD (2 * (x % 4)) || g.getLsbD (2 * (x % 4) + 1))

/-- LoRes: the low nibble over the top half of the cell, the high nibble over the bottom half (R509). -/
def loResPixel (s : State) (y x : Nat) : Pixel :=
  let b := textByte s .main (y / 8) (x / 8)
  if y % 8 < 4 then plain (b.extractLsb' 0 4) else plain (b.extractLsb' 4 4)

/-! ## Hi-res -/

/-- The address line `y` starts at (R510). -/
def hiresAddr (page2 : Bool) (y : Nat) : Nat :=
  (if page2 then 0x4000 else 0x2000) + (y % 8) * 0x400 + (y / 8 % 8) * 0x80 + (y / 64) * 0x28

/-- Byte `c` of line `y` in a bank. -/
def hiresByte (s : State) (b : Bank) (y c : Nat) : Byte :=
  Memory.read (s.ram b) (hiresAddr s.sw.effectivePage2 y + c)

/-- `L[x]`, 0 past the line's 280 bits (R511). -/
def hgrBit (s : State) (y x : Nat) : Bool := decide (x < 280) && (hiresByte s .main y (x / 7)).getLsbD (x % 7)

/-- `L[x - 1]`, with `L[-1] = 0` (R511). -/
def hgrLeft (s : State) (y x : Nat) : Bool := decide (0 < x) && hgrBit s y (x - 1)

/-- `colour(x)`: purple or green, blue or orange (R511). -/
def hgrColour (s : State) (y x : Nat) : BitVec 4 :=
  if (hiresByte s .main y (x / 7)).getLsbD 7 then (if x % 2 = 0 then 6#4 else 9#4)
  else (if x % 2 = 0 then 3#4 else 12#4)

/-- The palette index of HGR pixel `x` (R511). -/
def hgrIndex (s : State) (y x : Nat) : BitVec 4 :=
  if s.video.monochrome then (if hgrBit s y x then 15#4 else 0#4)
  else if hgrBit s y x then (if hgrLeft s y x || hgrBit s y (x + 1) then 15#4 else hgrColour s y x)
  else (if hgrLeft s y x && hgrBit s y (x + 1) then hgrColour s y (x - 1) else 0#4)

/-- A graphics pixel: `dim` is 0 for black and white and drawn for a colour (R512). -/
def colourPixel (s : State) (y x : Nat) (i : BitVec 4) : Pixel :=
  if i = 0#4 ∨ i = 15#4 then plain i else ⟨i, Config.drawDim s.draws y x⟩

/-- HGR: 280 pixels at columns 20 to 299 (R511). -/
def hgrPixel (s : State) (y x : Nat) : Pixel :=
  if x < 20 ∨ x ≥ 300 then blackPixel else colourPixel s y x (hgrIndex s y (x - 20))

/-! ## Double hi-res -/

/-- `s[j]`: the aux and main bytes of a line interleaved, aux first (R520). -/
def dhgrByte (s : State) (y j : Nat) : Byte := hiresByte s (if j % 2 = 0 then .aux else .main) y (j / 2)

/-- `buf[p]`: bit `2 + 7j + i` is `s[j][i]`, every other bit 0 (R520). -/
def dhgrBit (s : State) (y p : Nat) : Bool :=
  decide (2 ≤ p) && decide (p < 562) && (dhgrByte s y ((p - 2) / 7)).getLsbD ((p - 2) % 7)

/-- The 4-bit window that starts at `p`, earliest bit lowest (R520). -/
def dhgrWindow (s : State) (y p : Nat) : Nat :=
  (dhgrBit s y p).toNat + (dhgrBit s y (p + 1)).toNat * 2 + (dhgrBit s y (p + 2)).toNat * 4 + (dhgrBit s y (p + 3)).toNat * 8

/-- DHGR: the window at `(x · 7) div 4` through the LUT, or its first bit in monochrome (R520, R521). -/
def dhgrPixel (s : State) (y x : Nat) : Pixel :=
  if s.video.monochrome then monoPixel (dhgrBit s y (x * 7 / 4))
  else colourPixel s y x (dhgrColour s.cfg (x * 7 / 4 % 4) (dhgrWindow s y (x * 7 / 4)))

/-! ## The frame -/

/-- The pixel of guest line `y` at framebuffer column `x`. -/
def linePixel (s : State) (y x : Nat) : Pixel :=
  match s.sw.lineMode y with
  | .text40 => text40Pixel s y x
  | .text80 => text80Pixel s y x
  | .loRes => loResPixel s y x
  | .hgr => hgrPixel s y x
  | .dhgr => dhgrPixel s y x

/-- The pixel at a framebuffer row and column: rows 0-23 and 216-239 are black borders, guest line `y` is row `24 + y` (R503). -/
def framePixel (s : State) (row col : Nat) : Pixel :=
  if row < 24 ∨ row ≥ 216 then blackPixel else linePixel s (row - 24) col

/-- The framebuffer: 240 rows of 320 pixels (R500). -/
def frame (s : State) : List (List Pixel) :=
  (List.range 240).map fun row => (List.range 320).map fun col => framePixel s row col

/-- `render_frame()`: every pixel of `fb` written, RAM read directly, no side effect (R501). The dirty flags, which
change no output, are cleared (notes/assumptions/21.md). The options take effect here (R540); that the colour tables of
R530 are derived at this moment is DEDUCED from it (notes/assumptions/35.md). -/
def renderFrame (s : State) : State :=
  { s with
    video :=
      { s.video with
        fb := frame s
        clut := paletteClut s.video.monochrome s.video.paletteIndex
        clutLow := paletteClutLow s.video.monochrome s.video.paletteIndex
        frameDirty := false
        blinkTextDirty := false }
    draws := s.draws + 1 }

end Sys2Proof.Machine
end

