-- ==== Sys2Proof/Machine/HostActions.lean ====
section
/-! DEFINITION. The host interface: the only ways anything outside the block changes its state (60_exceptions.md R440). -/

namespace Sys2Proof.Machine

/-- `create(params)`: the creation state; parameters 93_implementation_defined.md section 1.3 names are refused (R705). -/
def create (c : Params) : Host.Outcome State Fault Refusal :=
  if c.accepted then .next (State.created c) else .refused .badParameters

/-- `reset(cold)` (70_reset_and_hazards.md R701). -/
def resetCpu (cold : Bool) (s : State) : State :=
  { s with
    a := 0#8
    x := 0#8
    y := 0#8
    sp := 0#8
    p := Flags.reset
    nmiPending := false
    ramMain := if cold then [] else s.ramMain
    ramAux := if cold then [] else s.ramAux
    pc := resetVector s.cfg }

/-- The loop's test: `cycle < n and instruction_run != 0` (61_timers.md R452). -/
def runs (n : Nat) (s : State) : Bool := decide (s.cycle.toNat < n) && decide (s.instructionRun ≠ 0)

/-- The loop of `run_cycles(n)` followed for `fuel` iterations (61_timers.md R452): the state in which it ends, or a refusal
while it has not ended. -/
def runLoop (n : Nat) : Nat → State → Host.Outcome State Fault Refusal
  | 0, s => if runs n s then .refused .runUnfinished else .next s
  | fuel + 1, s =>
    if runs n s then
      match step s with
      | .next t => runLoop n fuel t
      | .fault f => .fault f
      | .refused r => .refused r
    else .next s

/-- `run_cycles(n)`: `cycle <- 0`, `instruction_run <- 1`, then the loop (61_timers.md R452). The loop need not end, so it is
followed for `fuel` iterations; the answer, once there, is the same for every greater `fuel` (notes/assumptions/19.md). The
spec gives `n` no width: that it is an unbounded natural, and that no `n` is refused, is a DESIGN CHOICE
(notes/assumptions/38.md). -/
def runCycles (n fuel : Nat) (s : State) : Host.Outcome State Fault Refusal :=
  runLoop n fuel { s with cycle := 0#32, instructionRun := 1 }

/-- `keypress(k)`: `kbd_latch <- k | $80` for `k` in $00-$7F; $FB opens the host's disk menu and does not reach the latch
(R440). -/
def keypress (k : Byte) (s : State) : Host.Outcome State Fault Refusal :=
  if k.toNat < 0x80 then .next { s with kbdLatch := k ||| 0x80#8 }
  else if k = 0xFB#8 then .next s
  else .refused .badKeyCode

/-- `set_irq(level)` (R413). -/
def setIrq (level : Bool) (s : State) : State := { s with irqLine := level }

/-- `nmi()` (R411). -/
def raiseNmi (s : State) : State := { s with nmiPending := true }

/-- The trap table with an entry registered, indices rising (10_state.md R43). -/
def insertTrap (t : Byte) (handler : Nat) : List (Byte × Nat) → List (Byte × Nat)
  | [] => [(t, handler)]
  | (u, h) :: rest =>
    if t.toNat < u.toNat then (t, handler) :: (u, h) :: rest
    else if t = u then (t, handler) :: rest
    else (u, h) :: insertTrap t handler rest

/-- `register_trap(t, cb)` (R440). -/
def registerTrap (t : Byte) (handler : Nat) (s : State) : State :=
  { s with trapTable := insertTrap t handler s.trapTable }

/-- `register_timer(cb, initial, name) -> id`: appended, its position the id (61_timers.md R455). -/
def registerTimer (handler : Nat) (initial : BitVec 64) (name : String) (s : State) : Nat × State :=
  (s.timers.length, { s with timers := s.timers ++ [⟨initial, .host handler, name⟩] })

/-- `timer_set(id, v)` (61_timers.md R457). -/
def timerSet (id : Nat) (v : BitVec 64) (s : State) : Host.Outcome State Fault Refusal :=
  if id < s.timers.length then .next { s with timers := s.timers.modify id fun t => { t with remaining := v } }
  else .refused .noSuchTimer

/-- `set_video_options(monochrome, palette_index, rom_bank)`: it changes the options only, which the next `render_frame`
reads (62_video.md R540). -/
def setVideoOptions (monochrome : Bool) (paletteIndex : Nat) (romBank : Bool) (s : State) : State :=
  { s with video := { s.video with monochrome := monochrome, paletteIndex := paletteIndex, romBank := romBank } }

/-- `audio_drain(k)`: `k` stereo pairs (63_audio.md R570). -/
def audioDrain (k : Nat) (s : State) : List (Int × Int) × State :=
  ((s.audio.drain s.cfg k).1, { s with audio := (s.audio.drain s.cfg k).2 })

/-- `audio_sync(c)` (63_audio.md R575). The spec gives `c` no width: that it is an unbounded natural, and that no `c` is
refused, is a DESIGN CHOICE (notes/assumptions/37.md). -/
def audioSync (cyc : Nat) (s : State) : State := { s with audio := s.audio.sync s.cfg cyc }

/-- `mount(d, …)`, refused for media outside 64_disk_lss.md R601 or a RESET `qtrack` above 140 (R640). -/
def mountDrive (d : Fin 2) (m : Medium) (writeProtected : Bool) (mode : MountMode) (s : State) :
    Host.Outcome State Fault Refusal :=
  if m.accepted = false then .refused .badMedium
  else if MediaAction.accepted (.mount d m writeProtected mode) = false then .refused .badHeadPosition
  else .next { s with disk := s.disk.media (.mount d m writeProtected mode) }

/-- `eject(d)`: the medium with its dirty track stored goes back to the host (64_disk_lss.md R640). -/
def ejectDrive (d : Fin 2) (s : State) : Option Medium × State :=
  ((s.disk.drive d).ejectedMedium, { s with disk := s.disk.media (.eject d) })

/-- The save half of "drive state save/restore" (R440): what the host reads and may give back to a RESET mount. That a RESET
mount is the whole of the restore half, so that none is made without a mount, is a DESIGN CHOICE
(notes/assumptions/36.md). -/
def saveHead (d : Fin 2) (s : State) : HeadPlacement :=
  ⟨(s.disk.drive d).motor, (s.disk.drive d).stepper, (s.disk.drive d).qtrack, Fin.ofNat _ (s.disk.drive d).bitPosition⟩

/-- The host actions of R440 on an existing block; `fuel` is that of `runCycles`. -/
inductive HostAction where
  | reset (cold : Bool)
  | runCycles (n fuel : Nat)
  | keypress (k : Byte)
  | setIrq (level : Bool)
  | nmi
  | registerTrap (t : Byte) (handler : Nat)
  | registerTimer (handler : Nat) (initial : BitVec 64) (name : String)
  | timerSet (id : Nat) (v : BitVec 64)
  | renderFrame
  | setVideoOptions (monochrome : Bool) (paletteIndex : Nat) (romBank : Bool)
  | audioDrain (k : Nat)
  | audioSync (cyc : Nat)
  | mount (d : Fin 2) (m : Medium) (writeProtected : Bool) (mode : MountMode)
  | eject (d : Fin 2)
  deriving DecidableEq, Repr

/-- What a host action makes of the state; the samples, ids and media it answers are those of the functions above. -/
def hostStep (act : HostAction) (s : State) : Host.Outcome State Fault Refusal :=
  match act with
  | .reset cold => .next (resetCpu cold s)
  | .runCycles n fuel => runCycles n fuel s
  | .keypress k => keypress k s
  | .setIrq level => .next (setIrq level s)
  | .nmi => .next (raiseNmi s)
  | .registerTrap t handler => .next (registerTrap t handler s)
  | .registerTimer handler initial name => .next (registerTimer handler initial name s).2
  | .timerSet id v => timerSet id v s
  | .renderFrame => .next (renderFrame s)
  | .setVideoOptions m p r => .next (setVideoOptions m p r s)
  | .audioDrain k => .next (audioDrain k s).2
  | .audioSync cyc => .next (audioSync cyc s)
  | .mount d m wp mode => mountDrive d m wp mode s
  | .eject d => .next (ejectDrive d s).2

end Sys2Proof.Machine
end

