-- ==== Sys2Proof/Safety.lean ====
section
/-! DEFINITION. The terms claims are stated in: the invariant of every state a run reaches, the states steps and host
actions reach, and what an instruction leaves unchanged (its frame). -/

namespace Sys2Proof.Machine

/-! ## The invariant, part by part -/

/-- RAM: both banks canonical, every listed byte in $0000-$BFFF (10_state.md R45). -/
def ramOk (s : State) : Prop :=
  s.ramMain.wf = true ∧ Memory.below 0xC000 s.ramMain = true ∧ s.ramAux.wf = true ∧ Memory.below 0xC000 s.ramAux = true

/-- A contribution: −256 to +256 (10_state.md R51). -/
def contributionOk (v : Int) : Prop := -256 ≤ v ∧ v ≤ 256

/-- Audio: `RING_N` contributions, indices within the ring, the speaker at +256 or −256 (10_state.md R51). -/
def audioOk (c : Params) (au : Audio) : Prop :=
  au.ring.length = c.ringN ∧ au.write < c.ringN ∧ au.read < c.ringN ∧ (au.speaker = 256 ∨ au.speaker = -256)
    ∧ (∀ v ∈ au.ring, contributionOk v) ∧ contributionOk au.last

/-- A drive: head in [0, 140], track data canonical and within 6 656 bytes, a medium of the shape of 10_state.md R53, and
`headPosition` within the longest track. (`Drive.bitPosition` is within the track under the head in every state.) -/
def driveOk (d : Drive) : Prop :=
  d.qtrack ≤ 140 ∧ d.currTrack.wf = true ∧ Memory.below 6656 d.currTrack = true
    ∧ (∀ m, d.medium = some m → m.accepted = true) ∧ d.headPosition < 53248

/-- Disk II: `clock` within the bit cell (R52), both drives, and each drive's motor the controller's if selected (R620). -/
def diskOk (c : Params) (dk : Disk) : Prop :=
  dk.clock < c.bitTiming ∧ driveOk dk.drive0 ∧ driveOk dk.drive1
    ∧ dk.drive0.motor = (dk.motor && decide (dk.selected = 0)) ∧ dk.drive1.motor = (dk.motor && decide (dk.selected = 1))

/-- Video: `sw.VBL` says the phase, `line` is a scan line, `fb` has 240 rows of 320 pixels (10_state.md R48, R50). -/
def videoOk (s : State) : Prop :=
  s.sw.vbl = decide (s.video.vblPhase = .blanking) ∧ s.video.line < 192 ∧ s.video.fb.length = 240
    ∧ ∀ row ∈ s.video.fb, row.length = 320

/-- Timers: timer 0 is the VBL timer (61_timers.md R460). -/
def timersOk (s : State) : Prop := s.timers.head?.map (fun t => t.callback) = some TimerCallback.vbl

/-- Traps: one entry for an index, indices rising, so that equal tables are equal data (10_state.md R43). -/
def trapsOk (s : State) : Prop := s.trapTable.Pairwise fun e f => e.1.toNat < f.1.toNat

/-- The invariant of the block. -/
structure Inv (s : State) : Prop where
  params : s.cfg.accepted = true
  ram    : ramOk s
  audio  : audioOk s.cfg s.audio
  disk   : diskOk s.cfg s.disk
  video  : videoOk s
  timers : timersOk s
  traps  : trapsOk s

/-! ## Reachable states -/

/-- The states of a block: created with accepted parameters, then changed by steps and host actions only (R440). -/
inductive Reachable : State → Prop where
  | created (c : Params) (h : c.accepted = true) : Reachable (State.created c)
  | step {s t : State} (hs : Reachable s) (h : step s = .next t) : Reachable t
  | host {s t : State} (act : HostAction) (hs : Reachable s) (h : hostStep act s = .next t) : Reachable t

/-! ## Which instructions write what (10_state.md R31 to R36) -/

/-- Does the instruction call a host callback in this state? Only the trap opcode with a registered index does (45_control.md R366). -/
def callsTrap (i : Instr) (s : State) : Bool :=
  match i with
  | .brk t => (lookupTrap s.trapTable t).isSome
  | _ => false

/-- Is the instruction the trap opcode in interrupt mode (`UNTRAPPED_BRK = Interrupt`)? -/
def softwareInterrupt (i : Instr) (s : State) : Bool :=
  match i with
  | .brk _ => decide (s.cfg.untrappedBrk = .interrupt)
  | _ => false

/-- The instructions whose rule assigns PC: branches, jumps, subroutine calls and returns, RTI and the trap opcode. -/
def assignsPc : Instr → Bool
  | .bpl _ | .bmi _ | .bvc _ | .bvs _ | .bcc _ | .bcs _ | .bne _ | .beq _ | .bra _ => true
  | .bbr0 _ _ | .bbr1 _ _ | .bbr2 _ _ | .bbr3 _ _ | .bbr4 _ _ | .bbr5 _ _ | .bbr6 _ _ | .bbr7 _ _ => true
  | .bbs0 _ _ | .bbs1 _ _ | .bbs2 _ _ | .bbs3 _ _ | .bbs4 _ _ | .bbs5 _ _ | .bbs6 _ _ | .bbs7 _ _ => true
  | .jmp _ | .jsr _ | .rts | .rti | .brk _ => true
  | _ => false

/-- The writers of A (R31): loads, transfers, pulls, arithmetic, logic, and the accumulator forms of read-modify-write. -/
def writesA : Instr → Bool
  | .lda _ | .txa | .tya | .pla | .adc _ | .sbc _ | .and _ | .ora _ | .eor _ => true
  | .inc .acc | .dec .acc | .asl .acc | .lsr .acc | .rol .acc | .ror .acc => true
  | _ => false

/-- The writers of X (R32). -/
def writesX : Instr → Bool
  | .ldx _ | .inx | .dex | .tax | .tsx | .plx => true
  | _ => false

/-- The writers of Y (R32). -/
def writesY : Instr → Bool
  | .ldy _ | .iny | .dey | .tay | .ply => true
  | _ => false

/-- The writers of S (R33), the trap opcode in interrupt mode apart. -/
def writesSp : Instr → Bool
  | .txs | .pha | .php | .phx | .phy | .pla | .plp | .plx | .ply | .jsr _ | .rts | .rti => true
  | _ => false

/-- The writers of N (R36). -/
def writesN : Instr → Bool
  | .lda _ | .ldx _ | .ldy _ | .tax | .tay | .txa | .tya | .tsx | .pla | .plx | .ply => true
  | .adc _ | .sbc _ | .cmp _ | .cpx _ | .cpy _ | .inc _ | .dec _ | .inx | .iny | .dex | .dey => true
  | .and _ | .ora _ | .eor _ | .bit (.mem _) | .asl _ | .lsr _ | .rol _ | .ror _ | .plp | .rti => true
  | _ => false

/-- The writers of V (R36). -/
def writesV : Instr → Bool
  | .adc _ | .sbc _ | .bit (.mem _) | .clv | .plp | .rti => true
  | _ => false

/-- The writers of D (R36), the trap opcode in interrupt mode apart. -/
def writesD : Instr → Bool
  | .cld | .sed | .plp | .rti => true
  | _ => false

/-- The writers of I (R36), the trap opcode in interrupt mode apart. -/
def writesI : Instr → Bool
  | .cli | .sei | .plp | .rti => true
  | _ => false

/-- The writers of Z (R36): all N writers, BIT in all modes, TSB and TRB. -/
def writesZ : Instr → Bool
  | .bit _ | .tsb _ | .trb _ => true
  | i => writesN i

/-- The writers of C (R36). -/
def writesC : Instr → Bool
  | .adc _ | .sbc _ | .cmp _ | .cpx _ | .cpy _ | .asl _ | .lsr _ | .rol _ | .ror _ | .clc | .sec | .plp | .rti => true
  | _ => false

/-- The instructions that store a byte of memory by their own effect: stores, memory forms of read-modify-write, TSB and
TRB, RMBn and SMBn, pushes and JSR (20_memory.md R123, 40_load_store.md R198). -/
def storesMemory : Instr → Bool
  | .sta _ | .stx _ | .sty _ | .stz _ | .tsb _ | .trb _ => true
  | .inc m | .dec m | .asl m | .lsr m | .rol m | .ror m => decide (m ≠ .acc)
  | .rmb0 _ | .rmb1 _ | .rmb2 _ | .rmb3 _ | .rmb4 _ | .rmb5 _ | .rmb6 _ | .rmb7 _ => true
  | .smb0 _ | .smb1 _ | .smb2 _ | .smb3 _ | .smb4 _ | .smb5 _ | .smb6 _ | .smb7 _ => true
  | .pha | .php | .phx | .phy | .jsr _ => true
  | _ => false

/-! ## The cycles of every opcode (30_encoding.md R136, R141) -/

/-- A byte of a bank. -/
def State.byteAt (s : State) (b : Bank) (a : Nat) : Byte := Memory.read (s.ram b) a

/-- A cell of the table as it is written: the base count with its letters (none, `p`, `b`, `d`, `pd`, `u`). -/
inductive CycleCell where
  | n (count : Nat)
  | p (count : Nat)
  | b (count : Nat)
  | d (count : Nat)
  | pd (count : Nat)
  | u (count : Nat)
  deriving DecidableEq, Repr, Inhabited

/-- The base count of a cell. -/
def CycleCell.base : CycleCell → Nat
  | .n k | .p k | .b k | .d k | .pd k | .u k => k

/-- Rows $0x to $3x of R141. -/
def cycleRows0to3 : List (List CycleCell) :=
  [[.n 7, .n 6, .u 2, .u 2, .n 5, .n 3, .n 5, .n 5, .n 3, .n 2, .n 2, .u 2, .n 6, .n 4, .n 6, .b 5],
   [.b 2, .p 5, .n 5, .u 2, .n 5, .n 4, .n 6, .n 5, .n 2, .p 4, .n 2, .u 2, .n 6, .p 4, .p 6, .b 5],
   [.n 6, .n 6, .u 2, .u 2, .n 3, .n 3, .n 5, .n 5, .n 4, .n 2, .n 2, .u 2, .n 4, .n 4, .n 6, .b 5],
   [.b 2, .p 5, .n 5, .u 2, .n 4, .n 4, .n 6, .n 5, .n 2, .p 4, .n 2, .u 2, .p 4, .p 4, .p 6, .b 5]]

/-- Rows $4x to $7x of R141. -/
def cycleRows4to7 : List (List CycleCell) :=
  [[.n 6, .n 6, .u 2, .u 2, .u 2, .n 3, .n 5, .n 5, .n 3, .n 2, .n 2, .u 2, .n 3, .n 4, .n 6, .b 5],
   [.b 2, .p 5, .n 5, .u 2, .u 2, .n 4, .n 6, .n 5, .n 2, .p 4, .n 3, .u 2, .u 2, .p 4, .p 6, .b 5],
   [.n 6, .d 6, .u 2, .u 2, .n 3, .d 3, .n 5, .n 5, .n 4, .d 2, .n 2, .u 2, .n 6, .d 4, .n 6, .b 5],
   [.b 2, .pd 5, .d 5, .u 2, .n 4, .d 4, .n 6, .n 5, .n 2, .pd 4, .n 4, .u 2, .n 6, .pd 4, .p 6, .b 5]]

/-- Rows $8x to $Bx of R141. -/
def cycleRows8toB : List (List CycleCell) :=
  [[.p 3, .n 6, .u 2, .u 2, .n 3, .n 3, .n 3, .n 5, .n 2, .n 2, .n 2, .u 2, .n 4, .n 4, .n 4, .b 5],
   [.b 2, .n 6, .n 5, .u 2, .n 4, .n 4, .n 4, .n 5, .n 2, .n 5, .n 2, .u 2, .n 4, .n 5, .n 5, .b 5],
   [.n 2, .n 6, .n 2, .u 2, .n 3, .n 3, .n 3, .n 5, .n 2, .n 2, .n 2, .u 2, .n 4, .n 4, .n 4, .b 5],
   [.b 2, .p 5, .n 5, .u 2, .n 4, .n 4, .n 4, .n 5, .n 2, .p 4, .n 2, .u 2, .p 4, .p 4, .p 4, .b 5]]

/-- Rows $Cx to $Fx of R141. -/
def cycleRowsCtoF : List (List CycleCell) :=
  [[.n 2, .n 6, .u 2, .u 2, .n 3, .n 3, .n 5, .n 5, .n 2, .n 2, .n 2, .u 2, .n 4, .n 4, .n 6, .b 5],
   [.b 2, .p 5, .n 5, .u 2, .u 2, .n 4, .n 6, .n 5, .n 2, .p 4, .n 3, .u 2, .u 2, .p 4, .n 7, .b 5],
   [.n 2, .d 6, .u 2, .u 2, .n 3, .d 3, .n 5, .n 5, .n 2, .d 2, .n 2, .u 2, .n 4, .d 4, .n 6, .b 5],
   [.b 2, .pd 5, .d 5, .u 2, .u 2, .d 4, .n 6, .n 5, .n 2, .pd 4, .n 4, .u 2, .u 2, .pd 4, .n 7, .b 5]]

/-- The cell of an opcode. -/
def cycleCell (op : Byte) : CycleCell :=
  ((cycleRows0to3 ++ cycleRows4to7 ++ cycleRows8toB ++ cycleRowsCtoF).getD (op.toNat / 16) []).getD (op.toNat % 16) (.u 0)

/-- The mode of the memory operand of an instruction's form, if it has one. -/
def memOperand : Instr → Option MemMode
  | .lda m | .ldx m | .ldy m | .adc m | .sbc m | .cmp m | .cpx m | .cpy m | .and m | .ora m | .eor m | .bit m =>
    match m with
    | .imm _ => none
    | .mem mm => some mm
  | .sta m | .stx m | .sty m | .stz m => some m
  | .inc m | .dec m | .asl m | .lsr m | .rol m | .ror m => rmwMemMode m
  | .tsb m | .trb m => some (testMemMode m)
  | _ => none

/-- The base of an effective address that the indexing can move to another page (R135): the instruction's word, or the
zero-page pointer of `(zz),Y`. -/
def indexBase (m : MemMode) (s : State) : Option Addr :=
  let zp := fun z : Byte => s.byteAt (s.bankOf (0#8 ++ z) false) z.toNat
  match m with
  | .abx w | .aby w => some w
  | .izy z => some (zp (z + 1) ++ zp z)
  | _ => none

/-- A branch: whether it is taken, the address after it, and its offset (45_control.md R340, 44_bit_ops.md R320). -/
def branchOf (i : Instr) (s : State) : Option (Bool × Addr × Byte) :=
  let bit := fun (zz : Byte) (n : Nat) => (s.byteAt (s.bankOf (0#8 ++ zz) false) zz.toNat).getLsbD n
  match i with
  | .bpl r => some (!s.p.n, s.pc + 2, r)
  | .bmi r => some (s.p.n, s.pc + 2, r)
  | .bvc r => some (!s.p.v, s.pc + 2, r)
  | .bvs r => some (s.p.v, s.pc + 2, r)
  | .bcc r => some (!s.p.c, s.pc + 2, r)
  | .bcs r => some (s.p.c, s.pc + 2, r)
  | .bne r => some (!s.p.z, s.pc + 2, r)
  | .beq r => some (s.p.z, s.pc + 2, r)
  | .bra r => some (true, s.pc + 2, r)
  | .bbr0 z r => some (!bit z 0, s.pc + 3, r)
  | .bbr1 z r => some (!bit z 1, s.pc + 3, r)
  | .bbr2 z r => some (!bit z 2, s.pc + 3, r)
  | .bbr3 z r => some (!bit z 3, s.pc + 3, r)
  | .bbr4 z r => some (!bit z 4, s.pc + 3, r)
  | .bbr5 z r => some (!bit z 5, s.pc + 3, r)
  | .bbr6 z r => some (!bit z 6, s.pc + 3, r)
  | .bbr7 z r => some (!bit z 7, s.pc + 3, r)
  | .bbs0 z r => some (bit z 0, s.pc + 3, r)
  | .bbs1 z r => some (bit z 1, s.pc + 3, r)
  | .bbs2 z r => some (bit z 2, s.pc + 3, r)
  | .bbs3 z r => some (bit z 3, s.pc + 3, r)
  | .bbs4 z r => some (bit z 4, s.pc + 3, r)
  | .bbs5 z r => some (bit z 5, s.pc + 3, r)
  | .bbs6 z r => some (bit z 6, s.pc + 3, r)
  | .bbs7 z r => some (bit z 7, s.pc + 3, r)
  | _ => none

/-- `crossed(b, ea)`: two addresses lie in different pages (00_scope.md R17). -/
def otherPage (b ea : Addr) : Bool := decide (b.toNat / 256 ≠ ea.toNat / 256)

/-- Does the indexing of the instruction's operand, or the way to its branch target, cross a page? -/
def crossesPage (i : Instr) (s : State) : Bool :=
  match branchOf i s with
  | some (_, next, r) => otherPage next (next + r.signExtend 16)
  | none =>
    match memOperand i with
    | none => false
    | some m =>
      match indexBase m s with
      | none => false
      | some b => otherPage b (resolve m s).addr

/-- Is it a branch that is taken? -/
def takesBranch (i : Instr) (s : State) : Bool := ((branchOf i s).map fun e => e.1).getD false

/-- The cycles the letters of a cell add (R136): `p` one for a page crossed; `b` one for a branch taken and one more to
another page; `d` one in decimal mode. "Penalties add; no other penalty exists." -/
def penalty (cell : CycleCell) (i : Instr) (s : State) : Nat :=
  match cell with
  | .n _ | .u _ => 0
  | .p _ => (crossesPage i s).toNat
  | .b _ => if takesBranch i s then 1 + (crossesPage i s).toNat else 0
  | .d _ => s.p.d.toNat
  | .pd _ => (crossesPage i s).toNat + s.p.d.toNat

/-! ## Frames: what an instruction leaves unchanged -/

/-- The registers but PC: A, X, Y, S and the stored flags. -/
structure Regs where
  a  : Byte
  x  : Byte
  y  : Byte
  sp : Byte
  p  : Flags
  deriving DecidableEq, Repr

/-- The registers of a state. -/
def State.regs (s : State) : Regs := ⟨s.a, s.x, s.y, s.sp, s.p⟩

/-- What no instruction's own effect reaches: the run control, the interrupt requests, the trap table, the fault log,
the timers and the parameters. -/
structure ControlKept (s t : State) : Prop where
  instructionRun : t.instructionRun = s.instructionRun
  irqLine        : t.irqLine = s.irqLine
  nmiPending     : t.nmiPending = s.nmiPending
  speed          : t.speed = s.speed
  trapTable      : t.trapTable = s.trapTable
  faultLog       : t.faultLog = s.faultLog
  timers         : t.timers = s.timers
  cfg            : t.cfg = s.cfg

/-- Every byte of both banks is unchanged. -/
structure RamKept (s t : State) : Prop where
  main : t.ramMain = s.ramMain
  aux  : t.ramAux = s.ramAux

/-- The devices of `t` are those of `u`: keyboard, soft-switches, video, audio, disk, and the draws made. -/
structure DevicesAs (u t : State) : Prop where
  kbdLatch : t.kbdLatch = u.kbdLatch
  sw       : t.sw = u.sw
  video    : t.video = u.video
  audio    : t.audio = u.audio
  disk     : t.disk = u.disk
  draws    : t.draws = u.draws

/-- `k` cycles were charged (61_timers.md R451). -/
structure Costs (k : Nat) (s t : State) : Prop where
  cycle      : t.cycle = s.cycle + BitVec.ofNat 32 k
  totalCycle : t.totalCycle = s.totalCycle + BitVec.ofNat 64 k

/-- What clocking the devices leaves alone (61_timers.md R453, R456, R461): registers, PC, counters, RAM, the trap table
and fault log, keyboard and audio, every soft-switch but VBL, and of the video state all but what the VBL callback writes. -/
structure ClockFrame (s t : State) : Prop where
  regs      : t.regs = s.regs
  pc        : t.pc = s.pc
  cost      : Costs 0 s t
  ram       : RamKept s t
  speed     : t.speed = s.speed
  trapTable : t.trapTable = s.trapTable
  faultLog  : t.faultLog = s.faultLog
  cfg       : t.cfg = s.cfg
  kbdLatch  : t.kbdLatch = s.kbdLatch
  audio     : t.audio = s.audio
  sw        : t.sw = { s.sw with vbl := t.sw.vbl }
  video     : t.video = { s.video with
                vblPhase := t.video.vblPhase, frameCount := t.video.frameCount, line := t.video.line }

/-- The byte `v` was stored at the bus address `q` and nowhere else: the RAM byte of the bank an access of `q` selects
holds it, every other RAM byte of either bank is as before, and a store above $BFFF reaches no RAM. -/
structure Stored (q : Addr) (v : Byte) (s t : State) : Prop where
  here      : q.toNat < 0xC000 → (s.ram (s.bankOf q true)).wf = true → t.byteAt (s.bankOf q true) q.toNat = v
  elsewhere : ∀ b n, n ≠ q.toNat → t.byteAt b n = s.byteAt b n
  otherBank : ∀ b, b ≠ s.bankOf q true → t.ram b = s.ram b
  noRam     : 0xC000 ≤ q.toNat → RamKept s t

/-- The frame of a form that stores nothing and accesses no device: PC at `pc`, `k` cycles, nothing else but registers. -/
structure QuietFrame (pc : Addr) (k : Nat) (s t : State) : Prop where
  pc      : t.pc = pc
  cost    : Costs k s t
  ram     : RamKept s t
  devices : DevicesAs s t
  control : ControlKept s t

/-- The frame of a reading instruction with operand `m`: the devices are as its one operand read left them. `extra` is
the decimal-mode cycle. -/
structure ReadFrame (m : Src) (extra : Nat) (s t : State) : Prop where
  pc      : t.pc = s.pc + srcLength m
  cost    : Costs (readCycles m (load m s).crossed + extra) s t
  ram     : RamKept s t
  devices : DevicesAs (load m s).st t
  control : ControlKept s t

/-- The frame of a store of `v` through mode `m`. -/
structure StoreFrame (m : MemMode) (v : Byte) (s t : State) : Prop where
  regs    : t.regs = s.regs
  pc      : t.pc = s.pc + modeLength m
  cost    : Costs (storeCycles m) s t
  stored  : Stored (resolve m s).addr v s t
  devices : DevicesAs (busWrite (resolve m s).addr v s) t
  control : ControlKept s t

/-- The frame of a read then a write of `v` at the address `q`, ending at `pc` after `k` cycles. -/
structure ModifyFrame (q : Addr) (v : Byte) (pc : Addr) (k : Nat) (s t : State) : Prop where
  pc      : t.pc = pc
  cost    : Costs k s t
  stored  : Stored q v s t
  devices : DevicesAs (busWrite q v (busRead q s).2) t
  control : ControlKept s t

/-- The frame of a push of `v`: S one less, the stack byte, and no other register. -/
structure PushFrame (v : Byte) (k : Nat) (s t : State) : Prop where
  regs    : t.regs = { s.regs with sp := s.sp - 1 }
  pc      : t.pc = s.pc + 1
  cost    : Costs k s t
  stored  : Stored (stackAddr s.sp) v s t
  devices : DevicesAs s t
  control : ControlKept s t

/-! ## Opcodes of an instruction's forms -/

/-- The nine forms of LDA, ADC, SBC, CMP, AND, ORA and EOR, in the order of their Encoding lines. -/
def accModes (zz : Byte) (w : Addr) : List Src :=
  [.imm zz, .mem (.zp zz), .mem (.zpx zz), .mem (.abs w), .mem (.abx w), .mem (.aby w), .mem (.izx zz), .mem (.izy zz),
    .mem (.izp zz)]

/-- The five forms of INC, DEC and the shifts, in the order of their Encoding lines. -/
def rmwModes (zz : Byte) (w : Addr) : List RmwMode := [.acc, .zp zz, .zpx zz, .abs w, .abx w]

/-- The forms `modes` of the instruction `mk` have the opcodes `codes`, one for one: its Encoding line. -/
def HasOpcodes {α : Type} (mk : α → Instr) (modes : List α) (codes : List Byte) : Prop :=
  modes.map (fun m => opcodeOf (mk m)) = codes.map some

end Sys2Proof.Machine
end

