-- ==== Sys2Proof/Certificates/Slice0/Obligations.lean ====
section
/-! DEFINITION. The statements for the provers. Each docstring names the rule of spec/ it formalises; a clause that rests
on a choice of the model names the log entry. The frames are the structures of Safety.lean. A statement of an
instruction's result ends with the opcode of each of its forms, as the Encoding line of its rule gives it. -/

section

open Sys2Proof Sys2Proof.Machine

/-! ## Encoding (30_encoding.md) -/

/-- Decoding the bytes of a well-formed instruction gives it back, with every operand, and leaves the bytes after it
(R131, R140, R143). -/
def Obligations.DecodeInvertsEncode : Prop :=
  ∀ (c : Params) (i : Instr) (rest : List Byte), i.wellFormed c = true → decode c (encode i ++ rest) = .decoded i rest

/-- Every byte sequence that decodes does so to a well-formed instruction whose encoding is those bytes: each sequence
has one meaning (R130, R131, R140). -/
def Obligations.EncodeInvertsDecode : Prop :=
  ∀ (c : Params) (bytes : List Byte) (i : Instr) (rest : List Byte),
    decode c bytes = .decoded i rest → i.wellFormed c = true ∧ encode i ++ rest = bytes

/-- Every opcode byte begins an instruction of one to three bytes (R130, R143: no encoding traps, faults or halts). -/
def Obligations.EveryOpcodeByteDecodes : Prop :=
  ∀ (c : Params) (op b1 b2 : Byte) (rest : List Byte),
    ∃ i n, decode c (op :: b1 :: b2 :: rest) = .decoded i ((op :: b1 :: b2 :: rest).drop n)
      ∧ i.wellFormed c = true ∧ 1 ≤ n ∧ n ≤ 3 ∧ encode i = (op :: b1 :: b2 :: rest).take n

/-- Words written out from the Encoding lines of files 40 to 46 decode to the instructions they stand for, with the
standard parameters. -/
def Obligations.SampleWordsDecode : Prop :=
  decode .standard [0xA9, 0x42] = .decoded (.lda (.imm 0x42)) []
    ∧ decode .standard [0xBD, 0x34, 0x12] = .decoded (.lda (.mem (.abx 0x1234))) []
    ∧ decode .standard [0xB6, 0x10] = .decoded (.ldx (.mem (.zpy 0x10))) []
    ∧ decode .standard [0x91, 0x20] = .decoded (.sta (.izy 0x20)) []
    ∧ decode .standard [0x9E, 0x00, 0x04] = .decoded (.stz (.abx 0x0400)) []
    ∧ decode .standard [0xBA] = .decoded .tsx []
    ∧ decode .standard [0xDA] = .decoded .phx []
    ∧ decode .standard [0x72, 0x30] = .decoded (.adc (.mem (.izp 0x30))) []
    ∧ decode .standard [0xE1, 0x40] = .decoded (.sbc (.mem (.izx 0x40))) []
    ∧ decode .standard [0x1A] = .decoded (.inc .acc) []
    ∧ decode .standard [0x3C, 0x00, 0xC0] = .decoded (.bit (.mem (.abx 0xC000))) []
    ∧ decode .standard [0x1C, 0x30, 0x02] = .decoded (.trb (.abs 0x0230)) []
    ∧ decode .standard [0x7E, 0xFF, 0x02] = .decoded (.ror (.abx 0x02FF)) []
    ∧ decode .standard [0x57, 0x20] = .decoded (.rmb5 0x20) []
    ∧ decode .standard [0xE7, 0x20] = .decoded (.smb6 0x20) []
    ∧ decode .standard [0x3F, 0x10, 0x04] = .decoded (.bbr3 0x10 0x04) []
    ∧ decode .standard [0xFF, 0x10, 0xFD] = .decoded (.bbs7 0x10 0xFD) []
    ∧ decode .standard [0x80, 0xFE] = .decoded (.bra 0xFE) []
    ∧ decode .standard [0x7C, 0x00, 0x20] = .decoded (.jmp (.iax 0x2000)) []
    ∧ decode .standard [0x20, 0x00, 0x10] = .decoded (.jsr 0x1000) []
    ∧ decode .standard [0x00, 0x05] = .decoded (.brk 0x05) []
    ∧ decode .standard [0xF8] = .decoded .sed []
    ∧ decode .standard [0x03, 0xA9] = .decoded (.undef 0x03 (.one 0xA9)) []

/-- An instruction whose rule does not assign PC ends at PC plus the number of bytes of its encoding (10_state.md R34,
40_load_store.md R196). -/
def Obligations.SequentialPcAdvance : Prop :=
  ∀ (i : Instr) (s : State), i.wellFormed s.cfg = true → assignsPc i = false →
    ∃ t, exec i s = .next t ∧ t.pc = s.pc + BitVec.ofNat 16 (encode i).length

/-! ## The step (60_exceptions.md, 61_timers.md) -/

/-- With no interrupt to take, and the instruction outside the I/O page, a step executes the decoded instruction at this
state and then clocks the devices by its cost (40_load_store.md R196, 61_timers.md R452). -/
def Obligations.StepRunsDecodedInstruction : Prop :=
  ∀ (s : State) (i : Instr) (rest : List Byte),
    s.nmiPending = false → (s.irqLine = false ∨ s.p.i = true) →
    (∀ k : Fin 3, (s.pc + BitVec.ofNat 16 k.val).toNat < 0xC000 ∨ 0xC100 ≤ (s.pc + BitVec.ofNat 16 k.val).toNat) →
    decode s.cfg [(busRead s.pc s).1, (busRead (s.pc + 1) s).1, (busRead (s.pc + 2) s).1] = .decoded i rest →
    i.wellFormed s.cfg = true ∧ ∃ t, exec i s = .next t ∧ step s = .next (deviceStep (charged s t) t)

/-- The interrupt check and its three branches (60_exceptions.md R410): a pending NMI first, then an unmasked IRQ, each
an entry of 7 cycles, else the instruction, its bytes fetched through the bus one after another with their side effects,
as many as its length (40_load_store.md R196, 20_memory.md R110). Then the devices are clocked by the cost: the sequencer
first, which changes only the controller and the draws, then the timers, which leave the controller (61_timers.md R452,
R453); registers, PC, RAM, counters, trap table and fault log stay, and of each timer only `remaining` may change. That a
host timer callback changes none of these is the model's choice (notes/assumptions/16.md). -/
def Obligations.InterruptCheck : Prop :=
  (∀ (k : Nat) (s : State),
    let t := deviceStep k s
    t = timerStep k (diskStep k s)
    ∧ diskStep k s = { s with disk := (s.disk.run s.cfg k s.draws).1, draws := (s.disk.run s.cfg k s.draws).2 }
    ∧ ClockFrame s t ∧ t.disk = (s.disk.run s.cfg k s.draws).1
    ∧ t.timers.map (fun e => (e.callback, e.name)) = s.timers.map (fun e => (e.callback, e.name)))
  ∧ ∀ s : State,
    (s.nmiPending = true →
      step s = .next (deviceStep 7 ((enterInterrupt 0xFFFA#16 false { s with nmiPending := false }).charge 7)))
    ∧ (s.nmiPending = false → s.irqLine = true → s.p.i = false →
      step s = .next (deviceStep 7 ((enterInterrupt 0xFFFE#16 false s).charge 7)))
    ∧ (s.nmiPending = false → (s.irqLine = false ∨ s.p.i = true) →
      ∃ i u t, fetch s = (i, u) ∧ exec i u = .next t ∧ step s = .next (deviceStep (charged s t) t)
        ∧ (opcodeLength s.cfg (busRead s.pc s).1 = 1 →
            i = decodeBytes s.cfg (busRead s.pc s).1 0 0 ∧ u = (busRead s.pc s).2)
        ∧ (opcodeLength s.cfg (busRead s.pc s).1 = 2 →
            i = decodeBytes s.cfg (busRead s.pc s).1 (busRead (s.pc + 1) (busRead s.pc s).2).1 0
              ∧ u = (busRead (s.pc + 1) (busRead s.pc s).2).2)
        ∧ (opcodeLength s.cfg (busRead s.pc s).1 = 3 →
            i = decodeBytes s.cfg (busRead s.pc s).1 (busRead (s.pc + 1) (busRead s.pc s).2).1
                  (busRead (s.pc + 2) (busRead (s.pc + 1) (busRead s.pc s).2).2).1
              ∧ u = (busRead (s.pc + 2) (busRead (s.pc + 1) (busRead s.pc s).2).2).2))

/-- Every step of every state answers a next state: no instruction faults and nothing stops the machine (60_exceptions.md R400). -/
def Obligations.StepAlwaysContinues : Prop := ∀ s : State, ∃ t, step s = .next t

/-- `EnterInterrupt(vector, b)` (60_exceptions.md R412) on canonical RAM: PC high, PC low and `PackP(b)` in the three
stack bytes of the bank `BANK_SEL` selects, every other byte of either bank as before, S three less, I set, D cleared, PC from the vector's word in the main ROM,
nothing else changed. -/
def Obligations.InterruptEntryEffect : Prop :=
  ∀ (s : State) (b : Bool) (vector : Addr) (off : Nat),
    (vector, off) ∈ [(0xFFFA#16, 0x3FFA), (0xFFFE#16, 0x3FFE)] →
    s.ramMain.wf = true → s.ramAux.wf = true →
    let t := enterInterrupt vector b s
    t.regs = { s.regs with sp := s.sp - 3, p := { s.p with i := true, d := false } }
      ∧ t.pc = romByte s.cfg (off + 1) ++ romByte s.cfg off
      ∧ t.byteAt (s.bankOf (stackAddr s.sp) true) (256 + s.sp.toNat) = s.pc.extractLsb' 8 8
      ∧ t.byteAt (s.bankOf (stackAddr (s.sp - 1)) true) (256 + (s.sp - 1).toNat) = s.pc.extractLsb' 0 8
      ∧ t.byteAt (s.bankOf (stackAddr (s.sp - 2)) true) (256 + (s.sp - 2).toNat)
          = BitVec.ofBool s.p.n ++ BitVec.ofBool s.p.v ++ 1#1 ++ BitVec.ofBool b ++ BitVec.ofBool s.p.d
              ++ BitVec.ofBool s.p.i ++ BitVec.ofBool s.p.z ++ BitVec.ofBool s.p.c
      ∧ (∀ bank n, (∀ k ∈ [0#8, 1#8, 2#8], (bank, n) ≠ (s.bankOf (stackAddr (s.sp - k)) true, 256 + (s.sp - k).toNat)) →
          t.byteAt bank n = s.byteAt bank n)
      ∧ Costs 0 s t ∧ DevicesAs s t ∧ ControlKept s t

/-! ## The bus (20_memory.md) -/

/-- The address map outside the I/O page (R80) and where it dispatches to the I/O page: reads of RAM, card ROM and main
ROM give a byte and change nothing; a write reaches one byte of RAM, or nothing. -/
def Obligations.BusAddressMap : Prop :=
  ∀ (s : State) (q : Addr) (v : Byte),
    (q.toNat < 0xC000 →
      busRead q s = (s.byteAt (s.bankOf q false) q.toNat, s)
        ∧ Stored q v s (busWrite q v s) ∧ (busWrite q v s).regs = s.regs ∧ (busWrite q v s).pc = s.pc
        ∧ Costs 0 s (busWrite q v s) ∧ DevicesAs s (busWrite q v s) ∧ ControlKept s (busWrite q v s))
    ∧ (0xC000 ≤ q.toNat → q.toNat < 0xC100 →
      busRead q s = s.ioRead (q.extractLsb' 0 8) ∧ busWrite q v s = s.ioEffect (q.extractLsb' 0 8) (.write v))
    ∧ (0xC100 ≤ q.toNat → q.toNat < 0xD000 → busRead q s = (cardRomByte s.cfg q.toNat, s) ∧ busWrite q v s = s)
    ∧ (0xD000 ≤ q.toNat → busRead q s = (romByte s.cfg (q.toNat - 0xC000), s) ∧ busWrite q v s = s)
    ∧ (s.cfg.bankSel = .specDefault → ∀ w, s.bankOf q w = .main)

/-- The RAM law (R81): a read gives the last value written to that address in that bank, a write disturbs no other
address, and a byte not written since a cold reset reads 0. -/
def Obligations.RamLaw : Prop :=
  ∀ (s : State) (q : Addr), q.toNat < 0xC000 →
    (∀ v : Byte, s.ramMain.wf = true → s.ramAux.wf = true → s.bankOf q true = s.bankOf q false →
      (busRead q (busWrite q v s)).1 = v)
    ∧ (∀ (r : Addr) (v : Byte), r.toNat < 0xC000 → r ≠ q → (busRead q (busWrite r v s)).1 = (busRead q s).1)
    ∧ (busRead q (resetCpu true s)).1 = 0#8

/-- What a read of the I/O page returns and what keyboard, speaker and VBL addresses do (R90, R91, R93, R94, R98). `s.draws`
picks the free value of the bits no rule fixes (notes/assumptions/1.md); the statement holds for every value of it. -/
def Obligations.IoPageReads : Prop :=
  ∀ (s : State) (off : Byte) (v : Byte),
    let q := 0xC0#8 ++ off
    (off.toNat < 0x10 → (busRead q s).1 = s.kbdLatch)
    ∧ (off = 0x19#8 → (busRead q s).1
        = (if s.video.vblPhase = .blanking then 0x80#8 else 0#8) ||| (Config.drawByte s.draws &&& 0x7F#8))
    ∧ (0x10 ≤ off.toNat → off ≠ 0x19#8 → ¬ (off.toNat / 16 = 8 + s.cfg.diskSlot.val ∧ off.toNat % 2 = 0) →
        (busRead q s).1 = Config.drawByte s.draws)
    ∧ (off = 0x10#8 → (busRead q s).2.kbdLatch = s.kbdLatch &&& 0x7F#8
        ∧ (busWrite q v s).kbdLatch = s.kbdLatch &&& 0x7F#8)
    ∧ (off ≠ 0x10#8 → (busRead q s).2.kbdLatch = s.kbdLatch ∧ (busWrite q v s).kbdLatch = s.kbdLatch)
    ∧ (off = 0x30#8 → (busRead q s).2.audio = s.audio.click s.cfg s.totalCycle.toNat
        ∧ (busWrite q v s).audio = s.audio.click s.cfg s.totalCycle.toNat)
    ∧ (off ≠ 0x30#8 → (busRead q s).2.audio = s.audio ∧ (busWrite q v s).audio = s.audio)
    ∧ (off = 0x19#8 → busWrite q v s = s)

/-- The video soft-switches (20_memory.md R92): what each access at $C000-$C0FF makes of `sw`, `an3_mode` included; an
access of any other address there leaves `sw` (R97). That `AN3_MODE_UPDATE` is given the switches already changed
is the model's reading (notes/assumptions/11.md). -/
def Obligations.SoftSwitchAccess : Prop :=
  ∀ (s : State) (v : Byte),
    let rd := fun off : Byte => (busRead (0xC0#8 ++ off) s).2.sw
    let wr := fun off : Byte => (busWrite (0xC0#8 ++ off) v s).sw
    let both := fun (off : Byte) (sw : SoftSwitches) => rd off = sw ∧ wr off = sw
    let dhOn := { s.sw with dhires := true, an3 := false }
    let dhOff := { s.sw with dhires := false, an3 := true }
    (rd 0x00 = s.sw ∧ wr 0x00 = { s.sw with store80 := false })
    ∧ (rd 0x01 = s.sw ∧ wr 0x01 = { s.sw with store80 := true })
    ∧ both 0x0C { s.sw with col80 := false } ∧ both 0x0D { s.sw with col80 := true }
    ∧ both 0x0E { s.sw with altCharset := false } ∧ both 0x0F { s.sw with altCharset := true }
    ∧ both 0x50 { s.sw with text := false } ∧ both 0x51 { s.sw with text := true }
    ∧ both 0x52 { s.sw with mixed := false } ∧ both 0x53 { s.sw with mixed := true }
    ∧ both 0x54 { s.sw with page2 := false } ∧ both 0x55 { s.sw with page2 := true }
    ∧ both 0x56 { s.sw with hires := false } ∧ both 0x57 { s.sw with hires := true }
    ∧ both 0x5E { dhOn with an3Mode := an3ModeUpdate s.cfg s.sw.an3Mode dhOn }
    ∧ both 0x5F { dhOff with an3Mode := an3ModeUpdate s.cfg s.sw.an3Mode dhOff }
    ∧ (∀ off : Byte,
        off ∉ [0x00#8, 0x01#8, 0x0C#8, 0x0D#8, 0x0E#8, 0x0F#8, 0x50#8, 0x51#8, 0x52#8, 0x53#8, 0x54#8, 0x55#8, 0x56#8,
          0x57#8, 0x5E#8, 0x5F#8] → both off s.sw)
    ∧ (∀ off : Byte, off = 0x0E#8 ∨ off = 0x0F#8 →
        (busRead (0xC0#8 ++ off) s).2.video.blinkTextDirty = true ∧ (busWrite (0xC0#8 ++ off) v s).video.blinkTextDirty = true)
    ∧ (s.cfg.an3ModeUpdate = .specDefault → ∀ m sw, an3ModeUpdate s.cfg m sw = m)

/-- The effective address of every memory mode (30_encoding.md R135), pointer bytes from the zero page with wrap
(20_memory.md R75), working it out changing nothing; and `Load()` (40_load_store.md R197), one bus read there, or the
immediate byte itself (R133). -/
def Obligations.OperandAddressing : Prop :=
  ∀ (s : State) (zz : Byte) (w : Addr),
    let zp := fun z : Byte => s.byteAt (s.bankOf (0#8 ++ z) false) z.toNat
    let x16 : Addr := 0#8 ++ s.x
    let y16 : Addr := 0#8 ++ s.y
    (resolve (.zp zz) s).addr = 0#8 ++ zz
    ∧ (resolve (.zpx zz) s).addr = 0#8 ++ (zz + s.x)
    ∧ (resolve (.zpy zz) s).addr = 0#8 ++ (zz + s.y)
    ∧ (resolve (.abs w) s).addr = w
    ∧ (resolve (.abx w) s).addr = w + x16
    ∧ (resolve (.aby w) s).addr = w + y16
    ∧ (resolve (.izx zz) s).addr = zp (zz + s.x + 1) ++ zp (zz + s.x)
    ∧ (resolve (.izy zz) s).addr = (zp (zz + 1) ++ zp zz) + y16
    ∧ (resolve (.izp zz) s).addr = zp (zz + 1) ++ zp zz
    ∧ ((resolve (.abx w) s).crossed = true ↔ (w + x16).toNat / 256 ≠ w.toNat / 256)
    ∧ ((resolve (.aby w) s).crossed = true ↔ (w + y16).toNat / 256 ≠ w.toNat / 256)
    ∧ ((resolve (.izy zz) s).crossed = true
        ↔ ((zp (zz + 1) ++ zp zz) + y16).toNat / 256 ≠ (zp (zz + 1) ++ zp zz).toNat / 256)
    ∧ (∀ m, (resolve m s).st = s)
    ∧ (∀ nn, (load (.imm nn) s).value = nn ∧ (load (.imm nn) s).st = s)
    ∧ (∀ m, (load (.mem m) s).value = (busRead (resolve m s).addr s).1
        ∧ (load (.mem m) s).st = (busRead (resolve m s).addr s).2
        ∧ (load (.mem m) s).crossed = (resolve m s).crossed)
    ∧ (∀ m, (resolve m s).addr.toNat < 0xC000 →
        (load (.mem m) s).value = s.byteAt (s.bankOf (resolve m s).addr false) (resolve m s).addr.toNat
          ∧ (load (.mem m) s).st = s)

/-- Every instruction but the trap opcode and the undefined ones charges its opcode's count in the cycle table and exactly
the penalties of that entry's letters (30_encoding.md R141, R136, 61_timers.md R451). -/
def Obligations.BaseCyclesOfTheTable : Prop :=
  ∀ (i : Instr) (op : Byte) (s : State), i.wellFormed s.cfg = true → opcodeOf i = some op →
    (∀ t, i ≠ .brk t) → (∀ o r, i ≠ .undef o r) →
    ∃ t, exec i s = .next t ∧ Costs ((cycleCell op).base + penalty (cycleCell op) i s) s t

/-! ## Loads and stores (40_load_store.md) -/

/-- LDA, LDX and LDY (R200, R201, R202): the register takes the operand, N and Z follow it, nothing else changes. -/
def Obligations.LoadResults : Prop :=
  ∀ (m : Src) (s : State),
    let v := (load m s).value
    let p := { s.p with n := v.getLsbD 7, z := v == 0#8 }
    (∃ t, exec (.lda m) s = .next t ∧ t.regs = { s.regs with a := v, p := p } ∧ ReadFrame m 0 s t)
    ∧ (∃ t, exec (.ldx m) s = .next t ∧ t.regs = { s.regs with x := v, p := p } ∧ ReadFrame m 0 s t)
    ∧ (∃ t, exec (.ldy m) s = .next t ∧ t.regs = { s.regs with y := v, p := p } ∧ ReadFrame m 0 s t)
    ∧ (∀ (zz : Byte) (w : Addr),
      HasOpcodes .lda (accModes zz w) [0xA9, 0xA5, 0xB5, 0xAD, 0xBD, 0xB9, 0xA1, 0xB1, 0xB2]
      ∧ HasOpcodes .ldx [.imm zz, .mem (.zp zz), .mem (.zpy zz), .mem (.abs w), .mem (.aby w)]
          [0xA2, 0xA6, 0xB6, 0xAE, 0xBE]
      ∧ HasOpcodes .ldy [.imm zz, .mem (.zp zz), .mem (.zpx zz), .mem (.abs w), .mem (.abx w)]
          [0xA0, 0xA4, 0xB4, 0xAC, 0xBC])

/-- STA, STX, STY and STZ (R203 to R206) store A, X, Y and zero at the effective address; no register or flag changes. -/
def Obligations.StoreResults : Prop :=
  ∀ (m : MemMode) (s : State),
    (∃ t, exec (.sta m) s = .next t ∧ StoreFrame m s.a s t)
    ∧ (∃ t, exec (.stx m) s = .next t ∧ StoreFrame m s.x s t)
    ∧ (∃ t, exec (.sty m) s = .next t ∧ StoreFrame m s.y s t)
    ∧ (∃ t, exec (.stz m) s = .next t ∧ StoreFrame m 0#8 s t)
    ∧ (∀ (zz : Byte) (w : Addr),
      HasOpcodes .sta [.zp zz, .zpx zz, .abs w, .abx w, .aby w, .izx zz, .izy zz, .izp zz]
          [0x85, 0x95, 0x8D, 0x9D, 0x99, 0x81, 0x91, 0x92]
      ∧ HasOpcodes .stx [.zp zz, .zpy zz, .abs w] [0x86, 0x96, 0x8E]
      ∧ HasOpcodes .sty [.zp zz, .zpx zz, .abs w] [0x84, 0x94, 0x8C]
      ∧ HasOpcodes .stz [.zp zz, .zpx zz, .abs w, .abx w] [0x64, 0x74, 0x9C, 0x9E])

/-! ## Transfers and the stack (41_transfer_stack.md) -/

/-- The transfers (R220 to R225): TXS alone writes no flag. -/
def Obligations.TransferResults : Prop :=
  ∀ s : State,
    let nz := fun v : Byte => { s.p with n := v.getLsbD 7, z := v == 0#8 }
    (∃ t, exec .tax s = .next t ∧ t.regs = { s.regs with x := s.a, p := nz s.a } ∧ QuietFrame (s.pc + 1) 2 s t)
    ∧ (∃ t, exec .tay s = .next t ∧ t.regs = { s.regs with y := s.a, p := nz s.a } ∧ QuietFrame (s.pc + 1) 2 s t)
    ∧ (∃ t, exec .txa s = .next t ∧ t.regs = { s.regs with a := s.x, p := nz s.x } ∧ QuietFrame (s.pc + 1) 2 s t)
    ∧ (∃ t, exec .tya s = .next t ∧ t.regs = { s.regs with a := s.y, p := nz s.y } ∧ QuietFrame (s.pc + 1) 2 s t)
    ∧ (∃ t, exec .tsx s = .next t ∧ t.regs = { s.regs with x := s.sp, p := nz s.sp } ∧ QuietFrame (s.pc + 1) 2 s t)
    ∧ (∃ t, exec .txs s = .next t ∧ t.regs = { s.regs with sp := s.x } ∧ QuietFrame (s.pc + 1) 2 s t)
    ∧ encode .tax = [0xAA] ∧ encode .tay = [0xA8] ∧ encode .txa = [0x8A] ∧ encode .tya = [0x98] ∧ encode .tsx = [0xBA]
      ∧ encode .txs = [0x9A]

/-- PHA, PHP, PHX and PHY (R226 to R229); PHP pushes the flags with bits 5 and 4 set (10_state.md R35). -/
def Obligations.PushResults : Prop :=
  ∀ s : State,
    let packed := BitVec.ofBool s.p.n ++ BitVec.ofBool s.p.v ++ 0b11#2 ++ BitVec.ofBool s.p.d ++ BitVec.ofBool s.p.i
      ++ BitVec.ofBool s.p.z ++ BitVec.ofBool s.p.c
    (∃ t, exec .pha s = .next t ∧ PushFrame s.a 3 s t)
    ∧ (∃ t, exec .php s = .next t ∧ PushFrame packed 3 s t)
    ∧ (∃ t, exec .phx s = .next t ∧ PushFrame s.x 3 s t)
    ∧ (∃ t, exec .phy s = .next t ∧ PushFrame s.y 3 s t)
    ∧ encode .pha = [0x48] ∧ encode .php = [0x08] ∧ encode .phx = [0xDA] ∧ encode .phy = [0x5A]

/-- PLA, PLX, PLY and PLP (R230 to R233): S rises by one, modulo 256, and the stack byte there is pulled; PLP takes the
flags from bits 7, 6, 3, 2, 1 and 0. -/
def Obligations.PullResults : Prop :=
  ∀ s : State,
    let v := s.byteAt (s.bankOf (stackAddr (s.sp + 1)) false) (256 + (s.sp + 1).toNat)
    let nz := { s.p with n := v.getLsbD 7, z := v == 0#8 }
    let r := { s.regs with sp := s.sp + 1 }
    (∃ t, exec .pla s = .next t ∧ t.regs = { r with a := v, p := nz } ∧ QuietFrame (s.pc + 1) 4 s t)
    ∧ (∃ t, exec .plx s = .next t ∧ t.regs = { r with x := v, p := nz } ∧ QuietFrame (s.pc + 1) 4 s t)
    ∧ (∃ t, exec .ply s = .next t ∧ t.regs = { r with y := v, p := nz } ∧ QuietFrame (s.pc + 1) 4 s t)
    ∧ (∃ t, exec .plp s = .next t ∧ QuietFrame (s.pc + 1) 4 s t
        ∧ t.regs = { r with p :=
            ⟨v.getLsbD 7, v.getLsbD 6, v.getLsbD 3, v.getLsbD 2, v.getLsbD 1, v.getLsbD 0⟩ })
    ∧ encode .pla = [0x68] ∧ encode .plp = [0x28] ∧ encode .plx = [0xFA] ∧ encode .ply = [0x7A]

/-! ## Arithmetic (42_arithmetic.md) -/

/-- ADC: binary (R250) when D is 0, decimal (R252) when it is 1; one more cycle in decimal mode. -/
def Obligations.AdcResult : Prop :=
  ∀ (m : Src) (s : State),
    let v := (load m s).value
    let c := s.p.c.toNat
    (s.p.d = false →
      let t := s.a.toNat + v.toNat + c
      let r := BitVec.ofNat 8 t
      ∃ u, exec (.adc m) s = .next u ∧ ReadFrame m 0 s u
        ∧ u.regs = { s.regs with a := r, p := { s.p with
            n := r.getLsbD 7, v := (s.a ^^^ r) &&& (v ^^^ r) &&& 0x80#8 != 0#8, z := r == 0#8, c := decide (t > 255) } })
    ∧ (s.p.d = true →
      let al0 := (s.a &&& 0x0F#8).toNat + (v &&& 0x0F#8).toNat + c
      let al := if al0 ≥ 0x0A then (al0 + 6) % 16 + 0x10 else al0
      let sum : Int := (s.a &&& 0xF0#8).toInt + (v &&& 0xF0#8).toInt + al
      let t0 := (s.a &&& 0xF0#8).toNat + (v &&& 0xF0#8).toNat + al
      let t := if t0 ≥ 0xA0 then t0 + 0x60 else t0
      let r := BitVec.ofNat 8 t
      ∃ u, exec (.adc m) s = .next u ∧ ReadFrame m 1 s u
        ∧ u.regs = { s.regs with a := r, p := { s.p with
            n := r.getLsbD 7, v := decide (sum < -128) || decide (sum > 127), z := r == 0#8, c := decide (t ≥ 0x100) } })
    ∧ (∀ (zz : Byte) (w : Addr), HasOpcodes .adc (accModes zz w) [0x69, 0x65, 0x75, 0x6D, 0x7D, 0x79, 0x61, 0x71, 0x72])

/-- SBC: binary (R251) when D is 0, decimal (R253) when it is 1, with the binary C and V in both; one more cycle in
decimal mode. -/
def Obligations.SbcResult : Prop :=
  ∀ (m : Src) (s : State),
    let v := (load m s).value
    let c : Int := s.p.c.toNat
    let t : Int := s.a.toNat - v.toNat - (1 - c)
    let r := BitVec.ofInt 8 t
    let ovf := (s.a ^^^ v) &&& (s.a ^^^ r) &&& 0x80#8 != 0#8
    (s.p.d = false →
      ∃ u, exec (.sbc m) s = .next u ∧ ReadFrame m 0 s u
        ∧ u.regs = { s.regs with a := r, p := { s.p with
            n := r.getLsbD 7, v := ovf, z := r == 0#8, c := decide (t ≥ 0) } })
    ∧ (s.p.d = true →
      let al : Int := (s.a &&& 0x0F#8).toNat - (v &&& 0x0F#8).toNat + c - 1
      let t1 := if t < 0 then t - 0x60 else t
      let d := BitVec.ofInt 8 (if al < 0 then t1 - 6 else t1)
      ∃ u, exec (.sbc m) s = .next u ∧ ReadFrame m 1 s u
        ∧ u.regs = { s.regs with a := d, p := { s.p with
            n := d.getLsbD 7, v := ovf, z := d == 0#8, c := decide (t ≥ 0) } })
    ∧ (∀ (zz : Byte) (w : Addr), HasOpcodes .sbc (accModes zz w) [0xE9, 0xE5, 0xF5, 0xED, 0xFD, 0xF9, 0xE1, 0xF1, 0xF2])

/-- Overflow is signed overflow (R254): in binary addition, and in subtraction in either mode, V is 1 exactly when the
signed result lies outside −128..+127. -/
def Obligations.OverflowIsSigned : Prop :=
  ∀ (m : Src) (s : State),
    let v := (load m s).value
    (s.p.d = false → ∃ t, exec (.adc m) s = .next t
      ∧ t.p.v = decide (s.a.toInt + v.toInt + s.p.c.toNat < -128 ∨ s.a.toInt + v.toInt + s.p.c.toNat > 127))
    ∧ (∃ t, exec (.sbc m) s = .next t
      ∧ t.p.v = decide (s.a.toInt - v.toInt - (1 - s.p.c.toNat) < -128 ∨ s.a.toInt - v.toInt - (1 - s.p.c.toNat) > 127))

/-- On packed BCD operands decimal ADC and SBC are addition and subtraction of two-digit numbers modulo 100, with C the
decimal carry and not-borrow (R252, R253). -/
def Obligations.DecimalModeOnBcd : Prop :=
  ∀ (m : Src) (s : State),
    let v := (load m s).value
    let bcd := fun b : Byte => b.toNat % 16 < 10 ∧ b.toNat / 16 < 10
    let val := fun b : Byte => b.toNat / 16 * 10 + b.toNat % 16
    let c := s.p.c.toNat
    s.p.d = true → bcd s.a → bcd v →
    (∃ t, exec (.adc m) s = .next t ∧ bcd t.a ∧ val t.a = (val s.a + val v + c) % 100
      ∧ t.p.c = decide (val s.a + val v + c ≥ 100))
    ∧ (∃ t, exec (.sbc m) s = .next t ∧ bcd t.a ∧ val t.a = (val s.a + 100 + c - val v - 1) % 100
      ∧ t.p.c = decide (val s.a + c ≥ val v + 1))

/-- CMP, CPX and CPY (R255, R256, R257): C the unsigned not-less, Z equality, N bit 7 of the difference; V and every
register stay. -/
def Obligations.CompareResults : Prop :=
  ∀ (m : Src) (s : State),
    let v := (load m s).value
    let cmp := fun r : Byte => { s.p with n := (r - v).getLsbD 7, z := r == v, c := decide (v.toNat ≤ r.toNat) }
    (∃ t, exec (.cmp m) s = .next t ∧ t.regs = { s.regs with p := cmp s.a } ∧ ReadFrame m 0 s t)
    ∧ (∃ t, exec (.cpx m) s = .next t ∧ t.regs = { s.regs with p := cmp s.x } ∧ ReadFrame m 0 s t)
    ∧ (∃ t, exec (.cpy m) s = .next t ∧ t.regs = { s.regs with p := cmp s.y } ∧ ReadFrame m 0 s t)
    ∧ (∀ (zz : Byte) (w : Addr),
      HasOpcodes .cmp (accModes zz w) [0xC9, 0xC5, 0xD5, 0xCD, 0xDD, 0xD9, 0xC1, 0xD1, 0xD2]
      ∧ HasOpcodes .cpx [.imm zz, .mem (.zp zz), .mem (.abs w)] [0xE0, 0xE4, 0xEC]
      ∧ HasOpcodes .cpy [.imm zz, .mem (.zp zz), .mem (.abs w)] [0xC0, 0xC4, 0xCC])

/-- INC and DEC (R258, R259): one more or less, modulo 256, in A or in memory; N and Z follow the result. The memory form
reads its target once and writes it once. INX, INY, DEX and DEY (R260 to R263) do the same to X and Y. -/
def Obligations.IncDecResults : Prop :=
  ∀ (m : RmwMode) (s : State),
    let nz := fun v : Byte => { s.p with n := v.getLsbD 7, z := v == 0#8 }
    (m = .acc →
      (∃ t, exec (.inc m) s = .next t ∧ t.regs = { s.regs with a := s.a + 1, p := nz (s.a + 1) }
        ∧ QuietFrame (s.pc + 1) 2 s t)
      ∧ (∃ t, exec (.dec m) s = .next t ∧ t.regs = { s.regs with a := s.a - 1, p := nz (s.a - 1) }
        ∧ QuietFrame (s.pc + 1) 2 s t))
    ∧ (∀ mm, rmwMemMode m = some mm →
      let q := (resolve mm s).addr
      let v := (busRead q s).1
      let k := incCycles m (resolve mm s).crossed
      (∃ t, exec (.inc m) s = .next t ∧ t.regs = { s.regs with p := nz (v + 1) }
        ∧ ModifyFrame q (v + 1) (s.pc + rmwLength m) k s t)
      ∧ (∃ t, exec (.dec m) s = .next t ∧ t.regs = { s.regs with p := nz (v - 1) }
        ∧ ModifyFrame q (v - 1) (s.pc + rmwLength m) k s t))
    ∧ (∃ t, exec .inx s = .next t ∧ t.regs = { s.regs with x := s.x + 1, p := nz (s.x + 1) } ∧ QuietFrame (s.pc + 1) 2 s t)
    ∧ (∃ t, exec .iny s = .next t ∧ t.regs = { s.regs with y := s.y + 1, p := nz (s.y + 1) } ∧ QuietFrame (s.pc + 1) 2 s t)
    ∧ (∃ t, exec .dex s = .next t ∧ t.regs = { s.regs with x := s.x - 1, p := nz (s.x - 1) } ∧ QuietFrame (s.pc + 1) 2 s t)
    ∧ (∃ t, exec .dey s = .next t ∧ t.regs = { s.regs with y := s.y - 1, p := nz (s.y - 1) } ∧ QuietFrame (s.pc + 1) 2 s t)
    ∧ (∀ (zz : Byte) (w : Addr), HasOpcodes .inc (rmwModes zz w) [0x1A, 0xE6, 0xF6, 0xEE, 0xFE]
      ∧ HasOpcodes .dec (rmwModes zz w) [0x3A, 0xC6, 0xD6, 0xCE, 0xDE])
    ∧ encode .inx = [0xE8] ∧ encode .iny = [0xC8] ∧ encode .dex = [0xCA] ∧ encode .dey = [0x88]

/-! ## Logic and shifts (43_logic_shift.md) -/

/-- AND, ORA and EOR (R280, R281, R282). -/
def Obligations.LogicResults : Prop :=
  ∀ (m : Src) (s : State),
    let v := (load m s).value
    let nz := fun r : Byte => { s.p with n := r.getLsbD 7, z := r == 0#8 }
    (∃ t, exec (.and m) s = .next t ∧ t.regs = { s.regs with a := s.a &&& v, p := nz (s.a &&& v) } ∧ ReadFrame m 0 s t)
    ∧ (∃ t, exec (.ora m) s = .next t ∧ t.regs = { s.regs with a := s.a ||| v, p := nz (s.a ||| v) } ∧ ReadFrame m 0 s t)
    ∧ (∃ t, exec (.eor m) s = .next t ∧ t.regs = { s.regs with a := s.a ^^^ v, p := nz (s.a ^^^ v) } ∧ ReadFrame m 0 s t)
    ∧ (∀ (zz : Byte) (w : Addr),
      HasOpcodes .and (accModes zz w) [0x29, 0x25, 0x35, 0x2D, 0x3D, 0x39, 0x21, 0x31, 0x32]
      ∧ HasOpcodes .ora (accModes zz w) [0x09, 0x05, 0x15, 0x0D, 0x1D, 0x19, 0x01, 0x11, 0x12]
      ∧ HasOpcodes .eor (accModes zz w) [0x49, 0x45, 0x55, 0x4D, 0x5D, 0x59, 0x41, 0x51, 0x52])

/-- BIT (R283): Z from `A & M`; N and V from bits 7 and 6 of the operand in the memory forms, unchanged in the immediate
form; A unchanged. TSB and TRB (R288, R289): Z from `A & v` before the write, then `v | A` or `v & ~A` written; no other
flag. -/
def Obligations.BitTestResults : Prop :=
  ∀ s : State,
    (∀ nn, ∃ t, exec (.bit (.imm nn)) s = .next t ∧ t.regs = { s.regs with p := { s.p with z := s.a &&& nn == 0#8 } }
      ∧ ReadFrame (.imm nn) 0 s t)
    ∧ (∀ m,
      let v := (busRead (resolve m s).addr s).1
      ∃ t, exec (.bit (.mem m)) s = .next t
        ∧ t.regs = { s.regs with p := { s.p with z := s.a &&& v == 0#8, n := v.getLsbD 7, v := v.getLsbD 6 } }
        ∧ ReadFrame (.mem m) 0 s t)
    ∧ (∀ m : TestMode,
      let q := (resolve (testMemMode m) s).addr
      let v := (busRead q s).1
      let r := { s.regs with p := { s.p with z := s.a &&& v == 0#8 } }
      (∃ t, exec (.tsb m) s = .next t ∧ t.regs = r
        ∧ ModifyFrame q (v ||| s.a) (s.pc + testLength m) (testCycles m) s t)
      ∧ (∃ t, exec (.trb m) s = .next t ∧ t.regs = r
        ∧ ModifyFrame q (v &&& ~~~s.a) (s.pc + testLength m) (testCycles m) s t))
    ∧ (∀ (zz : Byte) (w : Addr),
      HasOpcodes .bit [.imm zz, .mem (.zp zz), .mem (.zpx zz), .mem (.abs w), .mem (.abx w)]
          [0x89, 0x24, 0x34, 0x2C, 0x3C]
      ∧ HasOpcodes .tsb [.zp zz, .abs w] [0x04, 0x0C] ∧ HasOpcodes .trb [.zp zz, .abs w] [0x14, 0x1C])

/-- ASL, LSR, ROL and ROR (R284 to R287) of A or of memory: the bit shifted out goes to C, the bit shifted in is 0 or the
old C, and N and Z follow the result. -/
def Obligations.ShiftResults : Prop :=
  ∀ (m : RmwMode) (s : State),
    let asl := fun v : Byte => v.extractLsb' 0 7 ++ 0#1
    let lsr := fun v : Byte => 0#1 ++ v.extractLsb' 1 7
    let rol := fun v : Byte => v.extractLsb' 0 7 ++ BitVec.ofBool s.p.c
    let ror := fun v : Byte => BitVec.ofBool s.p.c ++ v.extractLsb' 1 7
    let fl := fun (r : Byte) (c : Bool) => { s.p with n := r.getLsbD 7, z := r == 0#8, c := c }
    let inA := fun (i : Instr) (r : Byte) (c : Bool) =>
      ∃ t, exec i s = .next t ∧ t.regs = { s.regs with a := r, p := fl r c } ∧ QuietFrame (s.pc + 1) 2 s t
    let inM := fun (i : Instr) (q : Addr) (k : Nat) (r : Byte) (c : Bool) =>
      ∃ t, exec i s = .next t ∧ t.regs = { s.regs with p := fl r c } ∧ ModifyFrame q r (s.pc + rmwLength m) k s t
    (m = .acc →
      inA (.asl m) (asl s.a) (s.a.getLsbD 7) ∧ inA (.lsr m) (lsr s.a) (s.a.getLsbD 0)
        ∧ inA (.rol m) (rol s.a) (s.a.getLsbD 7) ∧ inA (.ror m) (ror s.a) (s.a.getLsbD 0))
    ∧ (∀ mm, rmwMemMode m = some mm →
      let q := (resolve mm s).addr
      let v := (busRead q s).1
      let k := shiftCycles m (resolve mm s).crossed
      inM (.asl m) q k (asl v) (v.getLsbD 7) ∧ inM (.lsr m) q k (lsr v) (v.getLsbD 0)
        ∧ inM (.rol m) q k (rol v) (v.getLsbD 7) ∧ inM (.ror m) q k (ror v) (v.getLsbD 0))
    ∧ (∀ (zz : Byte) (w : Addr),
      HasOpcodes .asl (rmwModes zz w) [0x0A, 0x06, 0x16, 0x0E, 0x1E]
      ∧ HasOpcodes .lsr (rmwModes zz w) [0x4A, 0x46, 0x56, 0x4E, 0x5E]
      ∧ HasOpcodes .rol (rmwModes zz w) [0x2A, 0x26, 0x36, 0x2E, 0x3E]
      ∧ HasOpcodes .ror (rmwModes zz w) [0x6A, 0x66, 0x76, 0x6E, 0x7E])

/-! ## Bit instructions (44_bit_ops.md) -/

/-- RMB0 to RMB7 clear and SMB0 to SMB7 set one bit of a zero-page byte (R300 to R318): the other bits, every flag and
every register stay. -/
def Obligations.BitModifyResults : Prop :=
  ∀ (zz : Byte) (s : State),
    let q : Addr := 0#8 ++ zz
    let v := s.byteAt (s.bankOf q false) zz.toNat
    let does := fun (i : Instr) (r : Byte) =>
      ∃ t, exec i s = .next t ∧ t.regs = s.regs ∧ ModifyFrame q r (s.pc + 2) 5 s t
    (∀ e ∈ [(Instr.rmb0 zz, 0), (.rmb1 zz, 1), (.rmb2 zz, 2), (.rmb3 zz, 3), (.rmb4 zz, 4), (.rmb5 zz, 5), (.rmb6 zz, 6),
        (.rmb7 zz, 7)], does e.1 (v &&& ~~~(1#8 <<< (e.2 : Nat)))
          ∧ encode e.1 = [BitVec.ofNat 8 (0x07 + 16 * e.2), zz])
    ∧ (∀ e ∈ [(Instr.smb0 zz, 0), (.smb1 zz, 1), (.smb2 zz, 2), (.smb3 zz, 3), (.smb4 zz, 4), (.smb5 zz, 5), (.smb6 zz, 6),
        (.smb7 zz, 7)], does e.1 (v ||| 1#8 <<< (e.2 : Nat))
          ∧ encode e.1 = [BitVec.ofNat 8 (0x87 + 16 * e.2), zz])

/-- BBR0 to BBR7 branch when bit n of a zero-page byte is 0, BBS0 to BBS7 when it is 1 (R320 to R338): 5 cycles, 6 when
taken, 7 when taken to another page; only PC and the counters change. -/
def Obligations.BitBranchResults : Prop :=
  ∀ (zz rr : Byte) (s : State),
    let v := s.byteAt (s.bankOf (0#8 ++ zz) false) zz.toNat
    let next := s.pc + 3
    let target := next + rr.signExtend 16
    let does := fun (i : Instr) (taken : Bool) =>
      ∃ t, exec i s = .next t ∧ t.regs = s.regs
        ∧ QuietFrame (if taken then target else next)
            (if taken then (if target.toNat / 256 = next.toNat / 256 then 6 else 7) else 5) s t
    (∀ e ∈ [(Instr.bbr0 zz rr, 0), (.bbr1 zz rr, 1), (.bbr2 zz rr, 2), (.bbr3 zz rr, 3), (.bbr4 zz rr, 4), (.bbr5 zz rr, 5),
        (.bbr6 zz rr, 6), (.bbr7 zz rr, 7)], does e.1 (!v.getLsbD e.2)
          ∧ encode e.1 = [BitVec.ofNat 8 (0x0F + 16 * e.2), zz, rr])
    ∧ (∀ e ∈ [(Instr.bbs0 zz rr, 0), (.bbs1 zz rr, 1), (.bbs2 zz rr, 2), (.bbs3 zz rr, 3), (.bbs4 zz rr, 4),
        (.bbs5 zz rr, 5), (.bbs6 zz rr, 6), (.bbs7 zz rr, 7)], does e.1 (v.getLsbD e.2)
          ∧ encode e.1 = [BitVec.ofNat 8 (0x8F + 16 * e.2), zz, rr])

/-! ## Control (45_control.md) -/

/-- The branches (R340 to R349): taken on their flag to `PC + 2 + sext(rr)` in 3 cycles, 4 to another page; else 2 cycles
to the next instruction. Only PC and the counters change. -/
def Obligations.BranchResults : Prop :=
  ∀ (rr : Byte) (s : State),
    let next := s.pc + 2
    let target := next + rr.signExtend 16
    let does := fun (i : Instr) (taken : Bool) =>
      ∃ t, exec i s = .next t ∧ t.regs = s.regs
        ∧ QuietFrame (if taken then target else next)
            (if taken then (if target.toNat / 256 = next.toNat / 256 then 3 else 4) else 2) s t
    does (.bpl rr) (!s.p.n) ∧ does (.bmi rr) s.p.n ∧ does (.bvc rr) (!s.p.v) ∧ does (.bvs rr) s.p.v
      ∧ does (.bcc rr) (!s.p.c) ∧ does (.bcs rr) s.p.c ∧ does (.bne rr) (!s.p.z) ∧ does (.beq rr) s.p.z
      ∧ does (.bra rr) true
      ∧ encode (.bpl rr) = [0x10, rr] ∧ encode (.bmi rr) = [0x30, rr] ∧ encode (.bvc rr) = [0x50, rr]
      ∧ encode (.bvs rr) = [0x70, rr] ∧ encode (.bcc rr) = [0x90, rr] ∧ encode (.bcs rr) = [0xB0, rr]
      ∧ encode (.bne rr) = [0xD0, rr] ∧ encode (.beq rr) = [0xF0, rr] ∧ encode (.bra rr) = [0x80, rr]

/-- JMP (R350): absolute, through a word whose high byte is at the next address modulo 65 536, or through a word at
`w + X`; the devices are as the pointer reads left them. -/
def Obligations.JmpResult : Prop :=
  ∀ (w : Addr) (s : State),
    (∃ t, exec (.jmp (.abs w)) s = .next t ∧ t.regs = s.regs ∧ QuietFrame w 3 s t)
    ∧ (∀ (i : Instr) (q : Addr), (i, q) ∈ [(Instr.jmp (.ind w), w), (.jmp (.iax w), w + (0#8 ++ s.x))] →
      let lo := busRead q s
      let hi := busRead (q + 1) lo.2
      ∃ t, exec i s = .next t ∧ t.regs = s.regs ∧ t.pc = hi.1 ++ lo.1 ∧ Costs 6 s t
        ∧ RamKept s t ∧ DevicesAs hi.2 t ∧ ControlKept s t)
    ∧ HasOpcodes .jmp [.abs w, .ind w, .iax w] [0x4C, 0x6C, 0x7C]

/-- JSR and RTS (R353, R354) on canonical RAM: JSR pushes the address of its last byte, high byte first, RTS pulls an
address and goes to the one after it; JSR changes no other byte of either bank; and RTS undoes JSR when the stack page is read and written in one bank. -/
def Obligations.SubroutineCallAndReturn : Prop :=
  ∀ (w : Addr) (s : State), s.ramMain.wf = true → s.ramAux.wf = true →
    (∃ t, exec (.jsr w) s = .next t ∧ t.regs = { s.regs with sp := s.sp - 2 } ∧ t.pc = w ∧ Costs 6 s t
      ∧ t.byteAt (s.bankOf (stackAddr s.sp) true) (256 + s.sp.toNat) = (s.pc + 2).extractLsb' 8 8
      ∧ t.byteAt (s.bankOf (stackAddr (s.sp - 1)) true) (256 + (s.sp - 1).toNat) = (s.pc + 2).extractLsb' 0 8
      ∧ (∀ b n, (∀ k ∈ [0#8, 1#8], (b, n) ≠ (s.bankOf (stackAddr (s.sp - k)) true, 256 + (s.sp - k).toNat)) →
          t.byteAt b n = s.byteAt b n)
      ∧ DevicesAs s t ∧ ControlKept s t
      ∧ ((∀ sp : Byte, s.bankOf (stackAddr sp) true = s.bankOf (stackAddr sp) false) →
          ∃ u, exec .rts t = .next u ∧ u.regs = s.regs ∧ u.pc = s.pc + 3))
    ∧ (∃ t, exec .rts s = .next t ∧ t.regs = { s.regs with sp := s.sp + 2 }
      ∧ QuietFrame
          (s.byteAt (s.bankOf (stackAddr (s.sp + 2)) false) (256 + (s.sp + 2).toNat)
            ++ s.byteAt (s.bankOf (stackAddr (s.sp + 1)) false) (256 + (s.sp + 1).toNat) + 1) 6 s t)
    ∧ opcodeOf (.jsr w) = some 0x20 ∧ encode .rts = [0x60]

/-- RTI (R355): the flags, then PC low, then PC high pulled, PC the pulled word itself. On canonical RAM, with the stack
page read and written in one bank, it undoes an interrupt entry: registers, flags and PC are those from before it,
wherever S stands (60_exceptions.md R412, R420). -/
def Obligations.ReturnFromInterrupt : Prop :=
  ∀ s : State,
    let stk := fun k : Byte => s.byteAt (s.bankOf (stackAddr (s.sp + k)) false) (256 + (s.sp + k).toNat)
    let f := stk 1
    (∃ t, exec .rti s = .next t ∧ QuietFrame (stk 3 ++ stk 2) 6 s t
      ∧ t.regs = { s.regs with sp := s.sp + 3, p :=
          ⟨f.getLsbD 7, f.getLsbD 6, f.getLsbD 3, f.getLsbD 2, f.getLsbD 1, f.getLsbD 0⟩ })
    ∧ (∀ (b : Bool) (vector : Addr), 0xC100 ≤ vector.toNat → vector.toNat < 0xFFFF →
      s.ramMain.wf = true → s.ramAux.wf = true →
      (∀ sp : Byte, s.bankOf (stackAddr sp) true = s.bankOf (stackAddr sp) false) →
      ∃ t, exec .rti (enterInterrupt vector b s) = .next t ∧ t.regs = s.regs ∧ t.pc = s.pc)
    ∧ encode .rti = [0x40]

/-- The trap opcode (R366). With a callback for `t`, it runs with PC past the two bytes and then the trap's cycles are
charged: the registers and requests are what the callback, a free value (notes/assumptions/15.md), leaves, and RAM
changes only where it writes. With none, the instruction is logged and skipped in 2 cycles, or enters the interrupt
through $FFFE with B set in 7. -/
def Obligations.TrapOpcodeResult : Prop :=
  ∀ (t : Byte) (s : State),
    (∀ handler, lookupTrap s.trapTable t = some handler →
      let e := Config.trapCallback handler s.draws { s with pc := s.pc + 2 }
      ∃ u, exec (.brk t) s = .next u ∧ u.regs = ⟨e.a, e.x, e.y, e.sp, e.p⟩ ∧ u.pc = e.pc
        ∧ u.irqLine = e.irqLine ∧ u.nmiPending = e.nmiPending ∧ u.instructionRun = e.instructionRun
        ∧ Costs s.cfg.trapCycles.toNat s u
        ∧ (∀ b n, (∀ w ∈ e.ramWrites, w.1 ≠ b ∨ w.2.1.toNat ≠ n) → u.byteAt b n = s.byteAt b n)
        ∧ u.trapTable = s.trapTable ∧ u.faultLog = s.faultLog ∧ u.timers = s.timers ∧ u.sw = s.sw
        ∧ u.kbdLatch = s.kbdLatch ∧ u.audio = s.audio ∧ u.speed = s.speed ∧ u.cfg = s.cfg)
    ∧ (lookupTrap s.trapTable t = none → s.cfg.untrappedBrk = .nop2 →
      ∃ u, exec (.brk t) s = .next u ∧ u.regs = s.regs ∧ u.faultLog = s.faultLog ++ [(s.pc, 0#8)]
        ∧ QuietFrame (s.pc + 2) 2 { s with faultLog := s.faultLog ++ [(s.pc, 0#8)] } u)
    ∧ (lookupTrap s.trapTable t = none → s.cfg.untrappedBrk = .interrupt →
      exec (.brk t) s = .next ((enterInterrupt 0xFFFE#16 true { s with pc := s.pc + 2 }).charge 7))

/-! ## Flags, NOP and undefined opcodes (46_flags_nop.md) -/

/-- The flag instructions (R380 to R386) write one flag each, NOP (R387) none; 2 cycles, PC one further, nothing else. -/
def Obligations.FlagInstructionResults : Prop :=
  ∀ s : State,
    let does := fun (i : Instr) (p : Flags) =>
      ∃ t, exec i s = .next t ∧ t.regs = { s.regs with p := p } ∧ QuietFrame (s.pc + 1) 2 s t
    does .clc { s.p with c := false } ∧ does .sec { s.p with c := true }
      ∧ does .cli { s.p with i := false } ∧ does .sei { s.p with i := true }
      ∧ does .cld { s.p with d := false } ∧ does .sed { s.p with d := true }
      ∧ does .clv { s.p with v := false } ∧ does .nop s.p
      ∧ encode .clc = [0x18] ∧ encode .sec = [0x38] ∧ encode .cli = [0x58] ∧ encode .sei = [0x78]
      ∧ encode .cld = [0xD8] ∧ encode .sed = [0xF8] ∧ encode .clv = [0xB8] ∧ encode .nop = [0xEA]

/-- An undefined opcode: under DocNop2 (R390) logged and skipped, two bytes and 2 cycles; under Wdc (R391) logged, with
the length, cycles and discarded read of the table of 30_encoding.md R143. A bit opcode has the length and the read of one
of the table's five forms, the same in every state, and one of its counts; which form and which count is a free value
(notes/assumptions/12.md). -/
def Obligations.UndefinedOpcodeResults : Prop :=
  ∀ (op : Byte) (operand : UndefOperand) (s : State),
    let logged := fun u : State => { u with faultLog := s.faultLog ++ [(s.pc, op)] }
    let does := fun (len : Addr) (k : Nat) (u : State) =>
      ∃ t, exec (.undef op operand) s = .next t ∧ t.regs = s.regs ∧ t.pc = s.pc + len ∧ Costs k s t ∧ RamKept s t
        ∧ DevicesAs u t ∧ ControlKept (logged s) t
    let low := match operand with | .none => 0#8 | .one b => b | .two b _ => b
    let high := match operand with | .two _ b => b | _ => 0#8
    (s.cfg.undefPolicy = .docNop2 → does 2 2 s)
    ∧ (s.cfg.undefPolicy = .wdc →
      (op ∈ [0x02#8, 0x22#8, 0x42#8, 0x62#8, 0x82#8, 0xC2#8, 0xE2#8] → does 2 2 s)
      ∧ (op = 0x44#8 → does 2 3 (busRead (0#8 ++ low) s).2)
      ∧ (op ∈ [0x54#8, 0xD4#8, 0xF4#8] → does 2 4 (busRead (0#8 ++ (low + s.x)) s).2)
      ∧ (op = 0x5C#8 → does 3 8 (busRead (high ++ low) s).2)
      ∧ (op ∈ [0xDC#8, 0xFC#8] → does 3 4 (busRead (high ++ low) s).2)
      ∧ (op.toNat % 16 = 3 ∨ op.toNat % 16 = 11 → does 1 1 s)
      ∧ (op.toNat % 8 = 7 → wdcCycles op ∈ [1, 2, 3, 4, 8] ∧
          match wdcForm op with
          | .imp => does 1 (wdcCycles op) s
          | .imm => does 2 (wdcCycles op) s
          | .zp => does 2 (wdcCycles op) (busRead (0#8 ++ low) s).2
          | .zpx => does 2 (wdcCycles op) (busRead (0#8 ++ (low + s.x)) s).2
          | .abs => does 3 (wdcCycles op) (busRead (high ++ low) s).2))

/-! ## Whole-machine rules -/

/-- Only its writers change a register or a flag (10_state.md R31, R32, R33, R36): A, X, Y, S and each flag keep their
value under every other instruction that calls no trap callback. -/
def Obligations.RegisterAndFlagWriters : Prop :=
  ∀ (i : Instr) (s : State), callsTrap i s = false →
    ∃ t, exec i s = .next t
      ∧ (writesA i = false → t.a = s.a) ∧ (writesX i = false → t.x = s.x) ∧ (writesY i = false → t.y = s.y)
      ∧ (writesN i = false → t.p.n = s.p.n) ∧ (writesV i = false → t.p.v = s.p.v)
      ∧ (writesZ i = false → t.p.z = s.p.z) ∧ (writesC i = false → t.p.c = s.p.c)
      ∧ (softwareInterrupt i s = false →
          (writesSp i = false → t.sp = s.sp) ∧ (writesD i = false → t.p.d = s.p.d) ∧ (writesI i = false → t.p.i = s.p.i))

/-- An instruction that stores nothing by its rule leaves every byte of both banks alone, and no instruction but one that
calls a trap callback changes a request line, the run budget, the trap table, the timers or the parameters (20_memory.md
R78, R120, 10_state.md R40, R41, R54). -/
def Obligations.StoringInstructionsOnly : Prop :=
  ∀ (i : Instr) (s : State), callsTrap i s = false →
    ∃ t, exec i s = .next t
      ∧ (storesMemory i = false → softwareInterrupt i s = false → RamKept s t)
      ∧ t.irqLine = s.irqLine ∧ t.nmiPending = s.nmiPending ∧ t.instructionRun = s.instructionRun
      ∧ t.speed = s.speed ∧ t.trapTable = s.trapTable ∧ t.timers = s.timers ∧ t.cfg = s.cfg

/-- The fault log only grows (60_exceptions.md R404, 10_state.md R44): a step appends one entry, the address of the opcode
byte and that byte, exactly when it takes no interrupt and the opcode is undefined or is an untrapped $00 under `Nop2`;
every other step leaves it. -/
def Obligations.FaultLogGrows : Prop :=
  ∀ s : State,
    let op := (busRead s.pc s).1
    let operand := (busRead (s.pc + 1) (busRead s.pc s).2).1
    let interrupted := s.nmiPending = true ∨ (s.irqLine = true ∧ s.p.i = false)
    let logs := ¬ interrupted ∧ (undefinedOpcode s.cfg op = true
      ∨ (op = 0#8 ∧ lookupTrap s.trapTable operand = none ∧ s.cfg.untrappedBrk = .nop2))
    ∃ t, step s = .next t
      ∧ (logs → t.faultLog = s.faultLog ++ [(s.pc, op)]) ∧ (¬ logs → t.faultLog = s.faultLog)

/-- The block's invariant is kept by every step from every state that has it. -/
def Obligations.StepKeepsInvariant : Prop := ∀ s t : State, Inv s → step s = .next t → Inv t

/-- The block's invariant is kept by every host action (60_exceptions.md R440). -/
def Obligations.HostActionsKeepInvariant : Prop :=
  ∀ (act : HostAction) (s t : State), Inv s → hostStep act s = .next t → Inv t

/-- The creation state of every accepted parameter set has the invariant, `State.reset` does, and so does every state
that steps and host actions reach from creation. -/
def Obligations.CreatedStatesHaveInvariant : Prop :=
  (∀ c : Params, c.accepted = true → Inv (State.created c)) ∧ Inv State.reset ∧ ∀ s, Reachable s → Inv s

/-! ## Run loop and timers (61_timers.md) -/

/-- `run_cycles(n)` (R452): it executes nothing for 0; while `cycle < n` and `instruction_run ≠ 0` it steps, and it answers
the state in which that test first fails, the same however far the loop is followed. With `TRAP_CYCLES` at least 1 it ends
within `n` iterations. The bounds keep the 32-bit `cycle` from wrapping; following the loop for `fuel` iterations is the
model's form (notes/assumptions/19.md), and `n` is any natural (notes/assumptions/38.md). -/
def Obligations.RunCyclesEnds : Prop :=
  ∀ (n : Nat) (s : State),
    (∀ fuel, runCycles 0 fuel s = .next { s with cycle := 0, instructionRun := 1 })
    ∧ (∀ fuel, runCycles n fuel s = runLoop n fuel { s with cycle := 0, instructionRun := 1 })
    ∧ (∀ fuel, (n ≤ s.cycle.toNat ∨ s.instructionRun = 0) → runLoop n fuel s = .next s)
    ∧ (∀ fuel t, s.cycle.toNat < n → s.instructionRun ≠ 0 → step s = .next t →
        runLoop n (fuel + 1) s = runLoop n fuel t)
    ∧ (∀ fuel t, runCycles n fuel s = .next t → n ≤ t.cycle.toNat ∨ t.instructionRun = 0)
    ∧ (∀ fuel more t, fuel ≤ more → runCycles n fuel s = .next t → runCycles n more s = .next t)
    ∧ (n ≤ 0x40000000 → 1 ≤ s.cfg.trapCycles.toNat → s.cfg.trapCycles.toNat ≤ 0x40000000 →
        ∃ t, runCycles n n s = .next t)

/-- `TimerStep(k)` (R456), timer by timer in registration order: a timer at 0 is skipped, else its `remaining` falls by
`k · speed`, `k` itself at speed 1.0 (R458), and at 0 or below is replaced by its callback's value; and the VBL callback
(R461): blanking for 4 550 cycles with `sw.VBL` set and one more frame, visible for 12 480 with it clear and `line` 0,
nothing else changed. That at another speed the fall is less than one from the exact product, and that `remaining` is
compared as an integer, are the model's (notes/assumptions/14.md, 17.md); so is what a host callback may change: its
timer's `remaining`, `instruction_run`, `irq_line`, and an NMI it requests, never one it withdraws
(notes/assumptions/16.md), and that it is given the timers list as it stood before the step (notes/assumptions/39.md). -/
def Obligations.TimerAndVblRules : Prop :=
  ∀ (k : Nat) (t : Timer) (rest : List Timer) (s : State),
    let fall := speedCycles s.speed k
    let den := s.speed.denLess1 + 1
    (s.speed = .unit → fall = k)
    ∧ fall * den < k * (den + s.speed.extraNum) + den ∧ k * (den + s.speed.extraNum) < fall * den + den
    ∧ (t.remaining = 0#64 → stepTimer k t s = (t, s))
    ∧ (t.remaining ≠ 0#64 → 0 < t.remaining.toInt - fall →
        stepTimer k t s = ({ t with remaining := t.remaining - BitVec.ofNat 64 fall }, s))
    ∧ (t.remaining ≠ 0#64 → t.remaining.toInt - fall ≤ 0 →
        stepTimer k t s
          = ({ t with remaining := (runCallback t.callback s).1 }, (runCallback t.callback s).2))
    ∧ stepTimers k [] s = ([], s)
    ∧ stepTimers k (t :: rest) s
        = ((stepTimer k t s).1 :: (stepTimers k rest (stepTimer k t s).2).1, (stepTimers k rest (stepTimer k t s).2).2)
    ∧ timerStep k s = { (stepTimers k s.timers s).2 with timers := (stepTimers k s.timers s).1 }
    ∧ (∀ id : Nat,
      let e := Config.timerCallback id s.draws s
      runCallback (.host id) s = (e.remaining,
        { s with
          instructionRun := if e.preempt then 0 else s.instructionRun
          irqLine := e.irqLine, nmiPending := s.nmiPending || e.raiseNmi, draws := s.draws + 1 }))
    ∧ (s.video.vblPhase = .visible →
      runCallback .vbl s = (4550#64,
        { s with
          sw := { s.sw with vbl := true }
          video := { s.video with vblPhase := .blanking, frameCount := s.video.frameCount + 1 } }))
    ∧ (s.video.vblPhase = .blanking →
      runCallback .vbl s = (12480#64,
        { s with sw := { s.sw with vbl := false }, video := { s.video with vblPhase := .visible, line := 0 } }))

/-! ## Audio (63_audio.md) -/

/-- `speaker_click(c)` (R563): the sign inverts always; at or past the re-anchor distance `write` is set ahead of `read`;
in between, `delta` ring entries take the speaker value and the oldest unread are dropped, so that the unread samples
number `min(unread + delta, RING_N − 1)`. -/
def Obligations.SpeakerClickRule : Prop :=
  ∀ (c : Params) (cyc : Nat) (au : Audio), c.accepted = true → audioOk c au →
    let pos := cyc * samplesPerCycle c / 65536
    let unread := fun a : Audio => (a.write + c.ringN - a.read) % c.ringN
    let t := au.click c cyc
    t.speaker = -au.speaker ∧ t.last = au.last ∧ t.secondaryIndex = au.secondaryIndex
    ∧ (pos ≤ au.currentSample →
        t.ring = au.ring ∧ t.write = au.write ∧ t.read = au.read ∧ t.currentSample = au.currentSample)
    ∧ (au.currentSample + c.sampleBufferOffset ≤ pos →
        t.ring = au.ring ∧ t.read = au.read ∧ t.write = (au.read + c.sampleBufferOffset) % c.ringN
          ∧ t.currentSample = pos)
    ∧ (au.currentSample < pos → pos < au.currentSample + c.sampleBufferOffset →
        t.currentSample = pos ∧ t.write = (au.write + (pos - au.currentSample)) % c.ringN
          ∧ (∀ j, j < pos - au.currentSample → t.ring[(au.write + j) % c.ringN]? = some au.speaker)
          ∧ (∀ k, k < c.ringN → (∀ j, j < pos - au.currentSample → k ≠ (au.write + j) % c.ringN) → t.ring[k]? = au.ring[k]?)
          ∧ unread t = min (unread au + (pos - au.currentSample)) (c.ringN - 1))

/-- `audio_drain` and `audio_sync` (R570, R575, R578): each pair takes the next contribution and zeroes its slot, or holds
the last one, scales and clamps it, and adds the secondary pair when that source is enabled; `k + 1` pairs are one and then
`k`. Sync empties and zeroes the ring and re-anchors. That `VOLUME` is a quotient of naturals, that the secondary stream
is read in order and that the cycle of a sync is any natural are the model's (notes/assumptions/9.md, 24.md, 37.md). -/
def Obligations.DrainAndSyncRules : Prop :=
  ∀ (k cyc : Nat) (s : State), audioOk s.cfg s.audio →
    let au := s.audio
    let clamp := fun v : Int => max (-32768) (min v 32767)
    let scaled := fun v : Int => clamp ((v * s.cfg.volumeNum).tdiv s.cfg.volumeDen)
    let second := Config.secondarySample au.secondaryIndex
    let mixed := fun m : Int =>
      if s.cfg.secondaryEnabled then (clamp (m + second.1.toInt), clamp (m + second.2.toInt)) else (m, m)
    let index := if s.cfg.secondaryEnabled then au.secondaryIndex + 1 else au.secondaryIndex
    (audioDrain k s).1.length = k
    ∧ (∀ pair ∈ (audioDrain k s).1,
        -32768 ≤ pair.1 ∧ pair.1 ≤ 32767 ∧ -32768 ≤ pair.2 ∧ pair.2 ≤ 32767)
    ∧ audioDrain 0 s = ([], s)
    ∧ audioDrain (k + 1) s
        = ((audioDrain 1 s).1 ++ (audioDrain k (audioDrain 1 s).2).1, (audioDrain k (audioDrain 1 s).2).2)
    ∧ (au.write ≠ au.read →
        audioDrain 1 s = ([mixed (scaled (au.ring.getD au.read 0))], { s with audio := { au with
          ring := au.ring.set au.read 0, read := (au.read + 1) % s.cfg.ringN, last := au.ring.getD au.read 0
          secondaryIndex := index } }))
    ∧ (au.write = au.read →
        audioDrain 1 s = ([mixed (scaled au.last)], { s with audio := { au with secondaryIndex := index } }))
    ∧ audioSync cyc s = { s with audio := { au with
        currentSample := cyc * samplesPerCycle s.cfg / 65536, ring := List.replicate s.cfg.ringN 0, write := au.read } }

/-! ## Disk II (64_disk_lss.md) -/

/-- `LssStep()` and `Act()` (R606, R607): the clock, the bit cell, what the cell keeps, the ROM index and the action; and
`DiskStep(k)` (R605) runs `LSS_STEPS_PER_CYCLE · k` of them, or nothing while the motor is off or the drive empty. -/
def Obligations.SequencerStepRule : Prop :=
  ∀ (c : Params) (dk : Disk) (draws k : Nat),
    let cell := (dk.cellStep c draws).1
    let byte := lssRomByte c
      (16 * cell.lssState.toNat + 8 * cell.q7.toNat + 4 * cell.q6.toNat + 2 * (cell.dataRegister.getLsbD 7).toNat
        + cell.rp.toNat)
    let a := byte.toNat % 16
    let d := cell.dataRegister
    (dk.clock + 4 < c.bitTiming → dk.cellStep c draws = ({ dk with clock := dk.clock + 4, rp := false }, draws))
    ∧ (c.bitTiming ≤ dk.clock + 4 →
        cell.clock = dk.clock + 4 - c.bitTiming ∧ cell.lssState = dk.lssState ∧ cell.dataRegister = dk.dataRegister
        ∧ cell.q6 = dk.q6 ∧ cell.q7 = dk.q7 ∧ cell.writeRegister = dk.writeRegister ∧ cell.motor = dk.motor
        ∧ cell.phase = dk.phase ∧ cell.selected = dk.selected ∧ cell.drive (1 - dk.selected) = dk.drive (1 - dk.selected)
        ∧ (dk.q7 = true → cell.rp = false ∧ cell.head = dk.head ∧ (dk.cellStep c draws).2 = draws
            ∧ cell.sel = (dk.sel.writeBit (dk.dataRegister.getLsbD 7)).advance)
        ∧ (dk.q7 = false → cell.head = (dk.sel.readBit draws).1 ∧ cell.rp = (dk.sel.readBit draws).1
            ∧ (dk.cellStep c draws).2 = (dk.sel.readBit draws).2 ∧ cell.sel = dk.sel.advance))
    ∧ (dk.lssStep c draws).1 = { cell with
        lssState := BitVec.ofNat 4 (byte.toNat / 16)
        dataRegister :=
          if a < 8 then 0#8
          else if a = 9 then d <<< 1
          else if a = 13 then (d <<< 1) ||| 1#8
          else if a = 10 ∨ a = 14 then (d >>> 1) ||| (if cell.sel.writeProtected then 0x80#8 else 0#8)
          else if a = 11 ∨ a = 15 then cell.writeRegister
          else d }
    ∧ (dk.lssStep c draws).2 = (dk.cellStep c draws).2
    ∧ (dk.motor = false ∨ dk.sel.medium = none → dk.run c k draws = (dk, draws))
    ∧ (dk.motor = true → dk.sel.medium ≠ none →
        dk.run c k draws = (fun q : Disk × Nat => q.1.lssStep c q.2)^[c.lssStepsPerCycle * k] (dk, draws))
    ∧ (∀ d : Drive, d.advance.bitPosition = (if d.bitCount = 0 then d.bitPosition else (d.bitPosition + 1) % d.bitCount)
        ∧ d.advance.headPosition = (if d.bitCount = 0 then d.headPosition else (d.bitPosition + 1) % d.bitCount)
        ∧ d.advance.currTrack = d.currTrack ∧ d.advance.medium = d.medium ∧ d.advance.qtrack = d.qtrack)

/-- Reading and writing the bit under the head (R601, R602, R608): bit `i` of a track is bit 7 − i mod 8 of byte i / 8;
`ReadBit()` draws with no medium, on a NOISE track and on one of no bits, else reads the bit at `bit_position`;
`WriteBit(b)` on a writable track makes that bit `b`, changes no other bit, marks the track dirty, and reads back; on a
protected or missing track nothing is written. `bit_position` is below `bit_count` in every state (10_state.md R53): the
kept position where that lies on the track, else that position wrapped at `bit_count`, the model's reading of R601
(notes/assumptions/22.md). A NOISE quarter-track counts as one of no bits (notes/assumptions/33.md). -/
def Obligations.TrackBitWriteRead : Prop :=
  ∀ (d : Drive) (b : Bool) (draws : Nat),
    let drawn := (Config.drawBit draws, draws + 1)
    (∀ data i, trackBit data i = (Memory.read data (i / 8)).getLsbD (7 - i % 8))
    ∧ (d.medium = none → d.bitCount = 0)
    ∧ (∀ m, d.medium = some m → m.refAt d.qtrack = .noise → d.bitCount = 0)
    ∧ (∀ m t, d.medium = some m → m.trackAt d.qtrack = some t → d.bitCount = t.bitCount)
    ∧ (d.bitCount = 0 → d.readBit draws = drawn)
    ∧ (0 < d.bitCount → d.bitPosition < d.bitCount ∧ d.readBit draws = (trackBit d.currTrack d.bitPosition, draws))
    ∧ (d.headPosition < d.bitCount → d.bitPosition = d.headPosition)
    ∧ (d.bitCount ≤ d.headPosition → d.bitPosition = d.headPosition % d.bitCount)
    ∧ (d.bitCount = 0 ∨ d.writeProtected = true → d.writeBit b = d)
    ∧ (0 < d.bitCount → d.writeProtected = false → d.currTrack.wf = true →
      trackBit (d.writeBit b).currTrack d.bitPosition = b
      ∧ (∀ i, i ≠ d.bitPosition → trackBit (d.writeBit b).currTrack i = trackBit d.currTrack i)
      ∧ (∀ m t, (d.writeBit b).medium = some m → m.trackAt d.qtrack = some t → t.dirty = true)
      ∧ (d.writeBit b).headPosition = d.headPosition ∧ (d.writeBit b).bitCount = d.bitCount
      ∧ (d.writeBit b).readBit draws = (b, draws))

/-- Phases and the head (R610): an access to a phase address (R620) sets that phase of the selected drive: the bit takes
its value in `stepper`, no other phase changes, and the head moves by `STEPPER_RULE` when the bit changed, motor on or
off. The default `STEPPER_RULE` (R612): the head moves by at most one
quarter-track, stays within [0, 140], and does not move for no, opposite, three or four energised phases; an energised
phase pulls it to the nearest position 2n mod 8. -/
def Obligations.StepperRule : Prop :=
  (∀ (c : Params) (d : Drive) (n : Fin 4) (v : Bool),
    (d.stepper.getLsbD n.val = v → d.setPhase c n v = d)
    ∧ (d.stepper.getLsbD n.val ≠ v → ∃ stepper : Byte,
        d.setPhase c n v = { d with stepper := stepper }.moveHead (stepHead c stepper n.val d.qtrack)
          ∧ (d.setPhase c n v).stepper = stepper ∧ stepper.getLsbD n.val = v
          ∧ (∀ m, m ≠ n.val → stepper.getLsbD m = d.stepper.getLsbD m)
          ∧ (d.setPhase c n v).qtrack = stepHead c stepper n.val d.qtrack
          ∧ (d.setPhase c n v).motor = d.motor))
  ∧ (∀ (s : State) (off : BitVec 4) (n : Fin 4) (v : Byte), off.toNat < 8 → n.val = off.toNat / 2 →
    let q : Addr := 0xC080#16 + BitVec.ofNat 16 (16 * s.cfg.diskSlot.val + off.toNat)
    (busRead q s).2.disk.sel = s.disk.sel.setPhase s.cfg n (decide (off.toNat % 2 = 1))
      ∧ (busWrite q v s).disk.sel = s.disk.sel.setPhase s.cfg n (decide (off.toNat % 2 = 1)))
  ∧ (∀ (c : Params) (stepper : Byte) (n q : Nat), c.stepperRule = .specDefault → stepHead c stepper n q = defaultStep stepper q)
  ∧ ∀ (stepper : Byte) (q : Nat), q ≤ 140 →
    let on := stepper.toNat % 16
    let r := defaultStep stepper q
    r ≤ 140 ∧ q ≤ r + 1 ∧ r ≤ q + 1
    ∧ (on ∈ [0, 5, 7, 10, 11, 13, 14, 15] → r = q)
    ∧ (∀ p target, (p, target) ∈ [(1, 0), (3, 1), (2, 2), (6, 3), (4, 4), (12, 5), (8, 6), (9, 7)] → on = p →
        ((target + 8 - q % 8) % 8 ∈ [1, 2, 3] → r = min (q + 1) 140)
        ∧ ((target + 8 - q % 8) % 8 ∈ [5, 6, 7] → r = q - 1)
        ∧ ((target + 8 - q % 8) % 8 ∈ [0, 4] → r = q))

/-- The head's arrival at another track (R614): the old track's bytes go back to the medium when dirty, the new track's
are loaded, and `bit_position` is taken modulo its length (0 for an empty one); the same track loads nothing. That NOISE
counts as a track of no bits, so that `bit_position` becomes 0 there, is the model's (notes/assumptions/33.md). -/
def Obligations.TrackChangeRule : Prop :=
  ∀ (d : Drive) (m : Medium) (q : Nat), d.medium = some m →
    (m.refAt q = m.refAt d.qtrack → d.moveHead q = { d with qtrack := q })
    ∧ (m.refAt q ≠ m.refAt d.qtrack → ∀ old : Fin 35, m.refAt d.qtrack = .track old →
        (d.moveHead q).medium = some { m with tracks := m.tracks.modify old.val fun t =>
          if t.dirty then { t with bits := d.currTrack, dirty := false } else t })
    ∧ (m.refAt q ≠ m.refAt d.qtrack → m.refAt d.qtrack = .noise → (d.moveHead q).medium = some m)
    ∧ (m.refAt q ≠ m.refAt d.qtrack →
        (d.moveHead q).qtrack = q ∧ (d.moveHead q).headPosition = (d.moveHead q).bitPosition
        ∧ (∀ t, m.trackAt q = some t → (d.moveHead q).currTrack = t.bits
            ∧ (d.moveHead q).bitPosition = if t.bitCount = 0 then 0 else d.bitPosition % t.bitCount)
        ∧ (m.refAt q = .noise → (d.moveHead q).currTrack = [] ∧ (d.moveHead q).bitPosition = 0))

/-- The controller's 16 addresses (R620): what each access does to motor, selected drive, Q6, Q7 and phases, each drive's
motor following the controller's, every other field of the controller and the drives as it was; a write goes to
`write_register`, an even address reads `data_register`, and an access changes nothing else but the draws. -/
def Obligations.DiskIoAddresses : Prop :=
  ∀ (s : State) (off : BitVec 4) (v : Byte),
    let q : Addr := 0xC080#16 + BitVec.ofNat 16 (16 * s.cfg.diskSlot.val + off.toNat)
    let rd := (busRead q s).2.disk
    let wr := (busWrite q v s).disk
    let dk := s.disk
    (off.toNat % 2 = 0 → (busRead q s).1 = dk.dataRegister)
    ∧ (off.toNat % 2 = 1 → (busRead q s).1 = Config.drawByte s.draws)
    ∧ wr = { rd with writeRegister := v } ∧ rd.writeRegister = dk.writeRegister
    ∧ (off.toNat < 8 → ∀ n : Fin 4, n.val = off.toNat / 2 →
        rd = dk.setDrive dk.selected (dk.sel.setPhase s.cfg n (decide (off.toNat % 2 = 1))))
    ∧ (busRead q s).2 = { s with disk := rd, draws := s.draws + off.toNat % 2 } ∧ busWrite q v s = { s with disk := wr }
    ∧ (off = 8#4 → rd = { dk with
        motor := false, drive0 := { dk.drive0 with motor := false }, drive1 := { dk.drive1 with motor := false } })
    ∧ (off = 9#4 → rd = { dk with
        motor := true, drive0 := { dk.drive0 with motor := decide (dk.selected = 0) }
        drive1 := { dk.drive1 with motor := decide (dk.selected = 1) } })
    ∧ (off = 10#4 → rd = { dk with
        selected := 0, drive0 := { dk.drive0 with motor := dk.motor }, drive1 := { dk.drive1 with motor := false } })
    ∧ (off = 11#4 → rd = { dk with
        selected := 1, drive0 := { dk.drive0 with motor := false }, drive1 := { dk.drive1 with motor := dk.motor } })
    ∧ (off = 12#4 → rd = { dk with q6 := false }) ∧ (off = 13#4 → rd = { dk with q6 := true })
    ∧ (off = 14#4 → rd = { dk with q7 := false }) ∧ (off = 15#4 → rd = { dk with q7 := true })

/-- `mount` and `eject` (R640): PRESERVE keeps motor, stepper, quarter-track and head position, whatever the medium, and loads
the track under the head; `bit_position` is that head position wherever it lies on the track (R53, notes/assumptions/22.md); RESET takes the given values; `eject` hands back the medium with a dirty track stored and leaves none. The other
drive and the rest of the state stay. Media outside R601 (notes/assumptions/18.md), and a RESET quarter-track above 140
(90_conflicts.md C14), are refused. Where the motor of a RESET mount goes (to the controller when the drive is selected,
each drive's motor following it) and the empty track after `eject` are the model's (notes/assumptions/23.md). -/
def Obligations.MountAndEject : Prop :=
  ∀ (d : Fin 2) (m : Medium) (wp : Bool) (s : State),
    let old := s.disk.drive d
    let other := s.disk.drive (1 - d)
    let out := (ejectDrive d s).2
    let drivesOnly := fun t : State =>
      t = { s with disk := { s.disk with drive0 := t.disk.drive0, drive1 := t.disk.drive1, motor := t.disk.motor } }
    (m.accepted = false → ∀ mode, mountDrive d m wp mode s = .refused .badMedium)
    ∧ (m.accepted = true →
        ∃ t, mountDrive d m wp .preserve s = .next t ∧ drivesOnly t ∧ t.disk.motor = s.disk.motor
          ∧ t.disk.drive d = { old with medium := some m, writeProtected := wp, currTrack := m.bitsAt old.qtrack }
          ∧ (old.headPosition < m.bitCountAt old.qtrack → (t.disk.drive d).bitPosition = old.headPosition)
          ∧ t.disk.drive (1 - d) = other)
    ∧ (m.accepted = true → ∀ h : HeadPlacement,
        (140 < h.qtrack → mountDrive d m wp (.reset h) s = .refused .badHeadPosition)
        ∧ (h.qtrack ≤ 140 →
        ∃ t, mountDrive d m wp (.reset h) s = .next t ∧ drivesOnly t
          ∧ t.disk.motor = (if s.disk.selected = d then h.motor else s.disk.motor)
          ∧ t.disk.drive d = ⟨some m, m.bitsAt h.qtrack, decide (s.disk.selected = d) && h.motor, h.stepper, h.qtrack,
              h.bitPosition.val, wp⟩
          ∧ (h.bitPosition.val < m.bitCountAt h.qtrack → (t.disk.drive d).bitPosition = h.bitPosition.val)
          ∧ t.disk.drive (1 - d) = { other with motor := decide (s.disk.selected ≠ d) && s.disk.motor }))
    ∧ drivesOnly out ∧ out.disk.motor = s.disk.motor ∧ out.disk.drive d = { old with medium := none, currTrack := [] }
    ∧ out.disk.drive (1 - d) = other
    ∧ (old.medium = none → (ejectDrive d s).1 = none)
    ∧ (∀ mounted, old.medium = some mounted →
        (ejectDrive d s).1 = some (mounted.updateAt old.qtrack fun t =>
          if t.dirty then { t with bits := old.currTrack, dirty := false } else t))

/-! ## Video (62_video.md) -/

/-- `render_frame()` (R500, R501, R503): 240 rows of 320 pixels, the top and bottom 24 black; apart from the framebuffer,
the colour tables, the dirty flags and the draws (notes/assumptions/21.md, 1.md) it changes nothing. The tables (R530), of
the options then set: index 6 and above select palette 0; black and white; monochrome scales each colour's luminance into
the base hue; `clut_low` scales saturation and value by 0.75, or in monochrome halves the value; each component less than
one from the exact quotient. Two different palettes are the monochrome ones. Which two, and the palette whose luminances a
monochrome one takes, are free values (notes/assumptions/27.md); that the `monochrome` option makes a monochrome palette of
one the spec leaves free, and that the tables change here, is the model's (notes/assumptions/32.md, 35.md). -/
def Obligations.RenderFrameShape : Prop :=
  ∀ s : State,
    let t := renderFrame s
    t.video.fb.length = 240 ∧ (∀ row ∈ t.video.fb, row.length = 320)
    ∧ (∀ r x, (r < 24 ∨ (216 ≤ r ∧ r < 240)) → x < 320 → ((t.video.fb.getD r []).getD x ⟨1#4, true⟩) = ⟨0#4, false⟩)
    ∧ (∀ y x, y < 192 → x < 320 → ((t.video.fb.getD (24 + y) []).getD x ⟨1#4, true⟩) = linePixel s y x)
    ∧ t.regs = s.regs ∧ t.pc = s.pc ∧ Costs 0 s t ∧ RamKept s t ∧ ControlKept s t
    ∧ t.kbdLatch = s.kbdLatch ∧ t.sw = s.sw ∧ t.audio = s.audio ∧ t.disk = s.disk
    ∧ t.video = { s.video with
        fb := t.video.fb, clut := t.video.clut, clutLow := t.video.clutLow, frameDirty := false, blinkTextDirty := false }
    ∧ t.video.clut.length = 16 ∧ t.video.clutLow.length = 16 ∧ amberPalette < 6 ∧ amberPalette ≠ Config.greenPalette.val
    ∧ (∀ i, i < 16 →
      let selected := if 6 ≤ s.video.paletteIndex then 0 else s.video.paletteIndex
      let pal := if s.video.monochrome then (Config.monochromePalette selected).val else selected
      let near := fun (n d : Nat) (v : Byte) => n < d * v.toNat + d ∧ d * v.toNat < n + d
      let colour := fun p : Nat =>
        if i = 0 then (0#8, 0#8, 0#8) else if i = 15 then (255#8, 255#8, 255#8) else Config.paletteRgb p i
      let source := colour (Config.monoSource pal).val
      let lum := 2126 * source.1.toNat + 7152 * source.2.1.toNat + 722 * source.2.2.toNat
      let mono := s.video.monochrome = true ∨ pal = Config.greenPalette.val ∨ pal = amberPalette
      let hue := Config.monoHue pal
      let col := t.video.clut.getD i (1#8, 1#8, 1#8)
      let low := t.video.clutLow.getD i (1#8, 1#8, 1#8)
      let top := max col.1.toNat (max col.2.1.toNat col.2.2.toNat)
      (¬ mono → col = colour pal
        ∧ near (3 * top + 9 * col.1.toNat) 16 low.1 ∧ near (3 * top + 9 * col.2.1.toNat) 16 low.2.1
        ∧ near (3 * top + 9 * col.2.2.toNat) 16 low.2.2)
      ∧ (mono →
        near (hue.1.toNat * lum) 2550000 col.1 ∧ near (hue.2.1.toNat * lum) 2550000 col.2.1
        ∧ near (hue.2.2.toNat * lum) 2550000 col.2.2
        ∧ near col.1.toNat 2 low.1 ∧ near col.2.1.toNat 2 low.2.1 ∧ near col.2.2.toNat 2 low.2.2))

/-- Which mode a guest line shows (R504), and the interleaved addresses of text cells and hi-res lines (R505, R510):
the formulas, and that distinct cells of a page lie at distinct addresses within its 1 024 bytes, distinct lines do not overlap within 8 192. -/
def Obligations.VideoModesAndAddresses : Prop :=
  (∀ (sw : SoftSwitches) (y : Nat),
    let text := if sw.col80 then LineMode.text80 else LineMode.text40
    let dhgr := sw.dhires = true ∧ (sw.col80 = true ∨ sw.an3Mode = 1#2 ∨ sw.an3Mode = 2#2)
    (sw.text = true → sw.lineMode y = text)
    ∧ (sw.text = false → sw.mixed = true → 160 ≤ y → sw.lineMode y = text)
    ∧ (sw.text = false → (sw.mixed = false ∨ y < 160) → sw.hires = true → dhgr → sw.lineMode y = .dhgr)
    ∧ (sw.text = false → (sw.mixed = false ∨ y < 160) → sw.hires = true → ¬ dhgr → sw.lineMode y = .hgr)
    ∧ (sw.text = false → (sw.mixed = false ∨ y < 160) → sw.hires = false → sw.lineMode y = .loRes)
    ∧ sw.effectivePage2 = (if sw.store80 then false else sw.page2))
  ∧ (∀ (page2 : Bool) (r c r' c' : Nat), r < 24 → c < 40 → r' < 24 → c' < 40 →
    let base := if page2 then 0x800 else 0x400
    textAddr page2 r c = base + (r &&& 7) * 0x80 + (r >>> 3) * 0x28 + c
      ∧ base ≤ textAddr page2 r c ∧ textAddr page2 r c < base + 0x400
      ∧ (textAddr page2 r c = textAddr page2 r' c' → r = r' ∧ c = c'))
  ∧ (∀ (page2 : Bool) (y c y' c' : Nat), y < 192 → c < 40 → y' < 192 → c' < 40 →
    let base := if page2 then 0x4000 else 0x2000
    hiresAddr page2 y = base + (y &&& 7) * 0x400 + ((y >>> 3) &&& 7) * 0x80 + (y >>> 6) * 0x28
      ∧ base ≤ hiresAddr page2 y + c ∧ hiresAddr page2 y + c < base + 0x2000
      ∧ (hiresAddr page2 y + c = hiresAddr page2 y' + c' → y = y' ∧ c = c'))

/-- The pixels of a line in each mode (R506 to R509, R511, R512, R520, R521): flashing codes move by $40 with
`frame_count & $10`; a glyph has seven pixels and a black one, or in 80 columns four, its bits joined in pairs, the
auxiliary byte first; a lo-res byte two colours; a hi-res pixel its colour from its neighbours, its column and bit 7; a
double hi-res pixel its colour from a window of four bits of the interleaved line. Black and white are not dimmed. -/
def Obligations.LinePixels : Prop :=
  ∀ (s : State) (y x : Nat), y < 192 → x < 320 →
    let cellByte := fun bank : Bank => s.byteAt bank (textAddr s.sw.effectivePage2 (y / 8) (x / 8))
    let code := fun b : Byte => if s.sw.altCharset = false ∧ 0x40 ≤ b.toNat ∧ b.toNat < 0x80 then
        (if s.video.frameCount &&& 0x10#32 ≠ 0#32 then b + 0x40#8 else b - 0x40#8) else b
    let glyph := fun bank : Bank => charGlyph s.cfg s.video.romBank (code (cellByte bank)) (y % 8)
    let plainPixel := fun on : Bool => (⟨if on then 15#4 else 0#4, false⟩ : Pixel)
    let byte := fun (bank : Bank) (k : Nat) => s.byteAt bank (hiresAddr s.sw.effectivePage2 y + k)
    let bit := fun k : Nat => decide (k < 280) && (byte .main (k / 7)).getLsbD (k % 7)
    let left := fun k : Nat => decide (0 < k) && bit (k - 1)
    let colour := fun k : Nat => if (byte .main (k / 7)).getLsbD 7 then (if k % 2 = 0 then 6#4 else 9#4)
      else (if k % 2 = 0 then 3#4 else 12#4)
    let source := fun j : Nat => byte (if j % 2 = 0 then .aux else .main) (j / 2)
    let buf := fun p : Nat => decide (2 ≤ p ∧ p < 562) && (source ((p - 2) / 7)).getLsbD ((p - 2) % 7)
    let p := x * 7 / 4
    let bw := (linePixel s y x).index = 0#4 ∨ (linePixel s y x).index = 15#4 → (linePixel s y x).dim = false
    (s.sw.lineMode y = .text40 →
      linePixel s y x = plainPixel (decide (x % 8 ≠ 7) && (glyph .main).getLsbD (x % 8)))
    ∧ (s.sw.lineMode y = .text80 →
      let g := glyph (if x / 4 % 2 = 0 then .aux else .main)
      (x % 4 = 0 → linePixel s y x = plainPixel (g.getLsbD 0 || g.getLsbD 1))
      ∧ (x % 4 = 1 → linePixel s y x = plainPixel (g.getLsbD 2 || g.getLsbD 3))
      ∧ (x % 4 = 2 → linePixel s y x = plainPixel (g.getLsbD 4 || g.getLsbD 5))
      ∧ (x % 4 = 3 → linePixel s y x = plainPixel (g.getLsbD 6)))
    ∧ (s.sw.lineMode y = .loRes →
      linePixel s y x
        = ⟨if y % 8 < 4 then (cellByte .main).extractLsb' 0 4 else (cellByte .main).extractLsb' 4 4, false⟩)
    ∧ (s.sw.lineMode y = .hgr → x < 20 ∨ 300 ≤ x → linePixel s y x = ⟨0#4, false⟩)
    ∧ (s.sw.lineMode y = .hgr → 20 ≤ x → x < 300 →
      (linePixel s y x).index =
        (let k := x - 20
         if s.video.monochrome then (if bit k then 15#4 else 0#4)
         else if bit k then (if left k || bit (k + 1) then 15#4 else colour k)
         else (if left k && bit (k + 1) then colour (k - 1) else 0#4))
      ∧ bw)
    ∧ (s.sw.lineMode y = .dhgr → s.video.monochrome = true → linePixel s y x = plainPixel (buf p))
    ∧ (s.sw.lineMode y = .dhgr → s.video.monochrome = false →
      (linePixel s y x).index
        = dhgrColour s.cfg (p % 4)
            ((buf p).toNat + 2 * (buf (p + 1)).toNat + 4 * (buf (p + 2)).toNat + 8 * (buf (p + 3)).toNat)
      ∧ bw)

/-! ## Reset and the host interface (70_reset_and_hazards.md, 60_exceptions.md) -/

/-- `reset(cold)` (R701, R702, R703): the registers 0, I set, the NMI request cleared, PC from the reset vector in the main
ROM, RAM zeroed when cold and kept when warm; everything else unchanged. -/
def Obligations.ResetRule : Prop :=
  ∀ (cold : Bool) (s : State),
    hostStep (.reset cold) s = .next { s with
      a := 0#8, x := 0#8, y := 0#8, sp := 0#8, p := ⟨false, false, false, true, false, false⟩, nmiPending := false
      pc := romByte s.cfg 0x3FFD ++ romByte s.cfg 0x3FFC
      ramMain := if cold then [] else s.ramMain, ramAux := if cold then [] else s.ramAux }
    ∧ (∀ b n, (resetCpu true s).byteAt b n = 0#8)

/-- The creation state (R700, R705), for every parameter set the block accepts: every item of R700's creation column, the
video options and the sizes of ring and framebuffer those of the parameters and of R500. -/
def Obligations.CreationState : Prop :=
  ∀ c : Params, c.accepted = true → ∃ s, create c = .next s
    ∧ s.regs = ⟨0#8, 0#8, 0#8, 0#8, ⟨false, false, false, true, false, false⟩⟩
    ∧ s.pc = romByte c 0x3FFD ++ romByte c 0x3FFC
    ∧ s.cfg = c ∧ s.speed = c.speed ∧ s.totalCycle = 0 ∧ s.cycle = 0 ∧ s.instructionRun = 0 ∧ s.irqLine = false
    ∧ s.nmiPending = false
    ∧ s.trapTable = [] ∧ s.faultLog = [] ∧ (∀ b n, s.byteAt b n = 0#8) ∧ s.kbdLatch = 0#8
    ∧ s.sw = ⟨false, false, false, false, false, false, false, false, false, false, 0, false, false, false⟩
    ∧ s.timers.map (fun t => (t.remaining, t.callback)) = [(12480#64, .vbl)]
    ∧ s.video.vblPhase = .visible ∧ s.video.frameCount = 0 ∧ s.video.line = 0
    ∧ s.video.monochrome = c.monochrome ∧ s.video.paletteIndex = c.paletteIndex ∧ s.video.romBank = c.romBank
    ∧ s.video.fb = List.replicate 240 (List.replicate 320 ⟨0#4, false⟩)
    ∧ s.audio.ring = List.replicate c.ringN 0 ∧ s.audio.write = 0 ∧ s.audio.read = 0 ∧ s.audio.currentSample = 0
    ∧ s.audio.speaker = -256 ∧ s.audio.last = 0
    ∧ s.disk.clock = 0 ∧ s.disk.lssState = 0 ∧ s.disk.q6 = false ∧ s.disk.q7 = false ∧ s.disk.dataRegister = 0
    ∧ s.disk.writeRegister = 0 ∧ s.disk.phase = 0 ∧ s.disk.motor = false ∧ s.disk.selected = 0 ∧ s.disk.head = false ∧ s.disk.rp = false
    ∧ (∀ d, (s.disk.drive d).medium = none ∧ (s.disk.drive d).qtrack = 0 ∧ (s.disk.drive d).stepper = 0
        ∧ (s.disk.drive d).bitPosition = 0 ∧ (s.disk.drive d).headPosition = 0 ∧ (s.disk.drive d).motor = false)

/-- The small host actions (60_exceptions.md R440, 61_timers.md R455, R457, 62_video.md R540): keypress, interrupt requests,
registration of traps and timers, `timer_set`, and `set_video_options`, which changes the three options and nothing else. -/
def Obligations.HostRequests : Prop :=
  ∀ s : State,
    (∀ k : Byte, k.toNat < 0x80 → hostStep (.keypress k) s = .next { s with kbdLatch := k ||| 0x80#8 })
    ∧ hostStep (.keypress 0xFB#8) s = .next s
    ∧ (∀ level, hostStep (.setIrq level) s = .next { s with irqLine := level })
    ∧ hostStep .nmi s = .next { s with nmiPending := true }
    ∧ (∀ (t u : Byte) (h : Nat), trapsOk s → ∃ r, hostStep (.registerTrap t h) s = .next r ∧ trapsOk r
        ∧ r = { s with trapTable := r.trapTable } ∧ lookupTrap r.trapTable t = some h ∧ (u ≠ t → lookupTrap r.trapTable u = lookupTrap s.trapTable u))
    ∧ (∀ (h : Nat) (initial : BitVec 64) (name : String),
        hostStep (.registerTimer h initial name) s
          = .next { s with timers := s.timers ++ [⟨initial, .host h, name⟩] })
    ∧ (∀ (id : Nat) (v : BitVec 64), (h : id < s.timers.length) →
        ∃ r, hostStep (.timerSet id v) s = .next r ∧ r.timers = s.timers.set id { s.timers[id] with remaining := v }
          ∧ r = { s with timers := r.timers })
    ∧ (∀ (mono : Bool) (index : Nat) (bank : Bool), hostStep (.setVideoOptions mono index bank) s
        = .next { s with video := { s.video with monochrome := mono, paletteIndex := index, romBank := bank } })

end
end

