-- ==== Sys2Proof/Laws/Memory.lean ====
section
/-! SUPPORT. The laws of the canonical byte memory: read after write, other addresses untouched, the form kept. -/

namespace Sys2Proof.Machine

/-- A canonical memory from `lo` on lists nothing below `lo`. -/
theorem Memory.read_of_wfFrom {m : Memory} : ∀ {lo a : Nat}, Memory.wfFrom lo m = true → a < lo → Memory.read m a = Memory.unlisted := by
  induction m with
  | nil => intros; rfl
  | cons c rest ih =>
    obtain ⟨b, w⟩ := c
    intro lo a h hlt
    simp only [Memory.wfFrom, Bool.and_eq_true, decide_eq_true_eq] at h
    have hne : ¬ a = b := by omega
    simp only [Memory.read, hne, if_false]
    exact ih h.2 (by omega)

/-- A lower starting point is a weaker claim. -/
theorem Memory.wfFrom_mono {m : Memory} {lo lo' : Nat} (h : Memory.wfFrom lo m = true) (hle : lo' ≤ lo) :
    Memory.wfFrom lo' m = true := by
  cases m with
  | nil => rfl
  | cons c rest =>
    obtain ⟨b, w⟩ := c
    simp only [Memory.wfFrom, Bool.and_eq_true, decide_eq_true_eq] at h ⊢
    exact ⟨⟨by omega, h.1.2⟩, h.2⟩

/-- A write at or above `lo` keeps the form from `lo` on. -/
theorem Memory.wfFrom_write {m : Memory} {a : Nat} {v : Byte} :
    ∀ {lo : Nat}, Memory.wfFrom lo m = true → lo ≤ a → Memory.wfFrom lo (Memory.write m a v) = true := by
  induction m with
  | nil =>
    intro lo _ hle
    by_cases hv : v = Memory.unlisted <;> simp [Memory.write, hv, Memory.wfFrom, hle]
  | cons c rest ih =>
    obtain ⟨b, w⟩ := c
    intro lo h hle
    have h' := h
    simp only [Memory.wfFrom, Bool.and_eq_true, decide_eq_true_eq] at h
    unfold Memory.write
    split
    · split
      · exact h'
      · rename_i hlt hv
        simp only [Memory.wfFrom, Bool.and_eq_true, decide_eq_true_eq]
        exact ⟨⟨hle, hv⟩, ⟨by omega, h.1.2⟩, h.2⟩
    · split
      · rename_i hnlt heq
        subst heq
        split
        · exact Memory.wfFrom_mono h.2 (by omega)
        · rename_i hv
          simp only [Memory.wfFrom, Bool.and_eq_true, decide_eq_true_eq]
          exact ⟨⟨h.1.1, hv⟩, h.2⟩
      · simp only [Memory.wfFrom, Bool.and_eq_true, decide_eq_true_eq]
        exact ⟨h.1, ih h.2 (by omega)⟩

/-- Every write keeps the canonical form. -/
theorem Memory.wf_write {m : Memory} {a : Nat} {v : Byte} (h : m.wf = true) : Memory.wf (Memory.write m a v) = true :=
  Memory.wfFrom_write h (Nat.zero_le a)

/-- The empty memory is canonical. -/
@[simp] theorem Memory.wf_nil : Memory.wf [] = true := rfl

/-- The empty memory lies below every bound. -/
@[simp] theorem Memory.below_nil (n : Nat) : Memory.below n [] = true := rfl

/-- The bound of a listed cell and of the cells after it. -/
theorem Memory.below_cons {n b : Nat} {w : Byte} {rest : Memory} :
    Memory.below n ((b, w) :: rest) = true ↔ b < n ∧ Memory.below n rest = true := by
  simp only [Memory.below, List.all_cons, Bool.and_eq_true, decide_eq_true_eq]

/-- A write below a bound keeps every listed address below it. -/
theorem Memory.below_write {n a : Nat} {v : Byte} (ha : a < n) {m : Memory} (h : Memory.below n m = true) :
    Memory.below n (Memory.write m a v) = true := by
  induction m with
  | nil =>
    by_cases hv : v = Memory.unlisted
    · simp [Memory.write, hv]
    · simp [Memory.write, hv, Memory.below_cons, ha]
  | cons c rest ih =>
    obtain ⟨b, w⟩ := c
    have h' := Memory.below_cons.1 h
    unfold Memory.write
    split
    · split
      · exact h
      · exact Memory.below_cons.2 ⟨ha, h⟩
    · split
      · split
        · exact h'.2
        · exact Memory.below_cons.2 ⟨ha, h'.2⟩
      · exact Memory.below_cons.2 ⟨h'.1, ih h'.2⟩

/-- Read after write at the same address gives the value written. -/
theorem Memory.read_write_same {m : Memory} {a : Nat} {v : Byte} :
    ∀ {lo : Nat}, Memory.wfFrom lo m = true → Memory.read (Memory.write m a v) a = v := by
  induction m with
  | nil =>
    intro lo _
    by_cases hv : v = Memory.unlisted
    · simp [Memory.write, Memory.read, hv]
    · simp [Memory.write, Memory.read, hv]
  | cons c rest ih =>
    obtain ⟨b, w⟩ := c
    intro lo h
    have hw := h
    simp only [Memory.wfFrom, Bool.and_eq_true, decide_eq_true_eq] at h
    unfold Memory.write
    split
    · split
      · rename_i hlt hv
        rw [hv]
        have hne : ¬ a = b := by omega
        simp only [Memory.read, hne, if_false]
        exact Memory.read_of_wfFrom h.2 (by omega)
      · simp [Memory.read]
    · split
      · rename_i hnlt heq
        subst heq
        split
        · rename_i hv
          rw [hv]
          exact Memory.read_of_wfFrom h.2 (by omega)
        · simp [Memory.read]
      · rename_i hnlt hne
        simp only [Memory.read, hne, if_false]
        exact ih h.2

/-- A write leaves every other address alone. -/
theorem Memory.read_write_other {a a' : Nat} {v : Byte} (hne : a' ≠ a) (m : Memory) :
    Memory.read (Memory.write m a v) a' = Memory.read m a' := by
  induction m with
  | nil => by_cases hv : v = Memory.unlisted <;> simp [Memory.write, Memory.read, hv, hne]
  | cons c rest ih =>
    obtain ⟨b, w⟩ := c
    unfold Memory.write
    split
    · split
      · rfl
      · simp [Memory.read, hne]
    · split
      · rename_i heq
        subst heq
        split <;> simp [Memory.read, hne]
      · simp only [Memory.read, ih]

/-- The read of a canonical memory after a write. -/
theorem Memory.read_write {m : Memory} (h : m.wf = true) (a a' : Nat) (v : Byte) :
    Memory.read (Memory.write m a v) a' = if a' = a then v else Memory.read m a' := by
  split
  · rename_i heq
    subst heq
    exact Memory.read_write_same h
  · exact Memory.read_write_other ‹_› m

end Sys2Proof.Machine
end

