-- ==== Sys2Proof/Laws/State.lean ====
section
/-! SUPPORT. One lemma per field per update of State, true by rfl, so that no proof unfolds a record update. -/

namespace Sys2Proof.Machine

variable (s : State)

/-! ## setA -/

@[simp] theorem State.setA_a (v : Byte) : (s.setA v).a = v := rfl
@[simp] theorem State.setA_x (v : Byte) : (s.setA v).x = s.x := rfl
@[simp] theorem State.setA_y (v : Byte) : (s.setA v).y = s.y := rfl
@[simp] theorem State.setA_sp (v : Byte) : (s.setA v).sp = s.sp := rfl
@[simp] theorem State.setA_pc (v : Byte) : (s.setA v).pc = s.pc := rfl
@[simp] theorem State.setA_p (v : Byte) : (s.setA v).p = s.p := rfl
@[simp] theorem State.setA_totalCycle (v : Byte) : (s.setA v).totalCycle = s.totalCycle := rfl
@[simp] theorem State.setA_cycle (v : Byte) : (s.setA v).cycle = s.cycle := rfl
@[simp] theorem State.setA_instructionRun (v : Byte) : (s.setA v).instructionRun = s.instructionRun := rfl
@[simp] theorem State.setA_irqLine (v : Byte) : (s.setA v).irqLine = s.irqLine := rfl
@[simp] theorem State.setA_nmiPending (v : Byte) : (s.setA v).nmiPending = s.nmiPending := rfl
@[simp] theorem State.setA_speed (v : Byte) : (s.setA v).speed = s.speed := rfl
@[simp] theorem State.setA_trapTable (v : Byte) : (s.setA v).trapTable = s.trapTable := rfl
@[simp] theorem State.setA_faultLog (v : Byte) : (s.setA v).faultLog = s.faultLog := rfl
@[simp] theorem State.setA_ramMain (v : Byte) : (s.setA v).ramMain = s.ramMain := rfl
@[simp] theorem State.setA_ramAux (v : Byte) : (s.setA v).ramAux = s.ramAux := rfl
@[simp] theorem State.setA_kbdLatch (v : Byte) : (s.setA v).kbdLatch = s.kbdLatch := rfl
@[simp] theorem State.setA_sw (v : Byte) : (s.setA v).sw = s.sw := rfl
@[simp] theorem State.setA_timers (v : Byte) : (s.setA v).timers = s.timers := rfl
@[simp] theorem State.setA_video (v : Byte) : (s.setA v).video = s.video := rfl
@[simp] theorem State.setA_audio (v : Byte) : (s.setA v).audio = s.audio := rfl
@[simp] theorem State.setA_disk (v : Byte) : (s.setA v).disk = s.disk := rfl
@[simp] theorem State.setA_draws (v : Byte) : (s.setA v).draws = s.draws := rfl
@[simp] theorem State.setA_cfg (v : Byte) : (s.setA v).cfg = s.cfg := rfl

/-! ## setX -/

@[simp] theorem State.setX_a (v : Byte) : (s.setX v).a = s.a := rfl
@[simp] theorem State.setX_x (v : Byte) : (s.setX v).x = v := rfl
@[simp] theorem State.setX_y (v : Byte) : (s.setX v).y = s.y := rfl
@[simp] theorem State.setX_sp (v : Byte) : (s.setX v).sp = s.sp := rfl
@[simp] theorem State.setX_pc (v : Byte) : (s.setX v).pc = s.pc := rfl
@[simp] theorem State.setX_p (v : Byte) : (s.setX v).p = s.p := rfl
@[simp] theorem State.setX_totalCycle (v : Byte) : (s.setX v).totalCycle = s.totalCycle := rfl
@[simp] theorem State.setX_cycle (v : Byte) : (s.setX v).cycle = s.cycle := rfl
@[simp] theorem State.setX_instructionRun (v : Byte) : (s.setX v).instructionRun = s.instructionRun := rfl
@[simp] theorem State.setX_irqLine (v : Byte) : (s.setX v).irqLine = s.irqLine := rfl
@[simp] theorem State.setX_nmiPending (v : Byte) : (s.setX v).nmiPending = s.nmiPending := rfl
@[simp] theorem State.setX_speed (v : Byte) : (s.setX v).speed = s.speed := rfl
@[simp] theorem State.setX_trapTable (v : Byte) : (s.setX v).trapTable = s.trapTable := rfl
@[simp] theorem State.setX_faultLog (v : Byte) : (s.setX v).faultLog = s.faultLog := rfl
@[simp] theorem State.setX_ramMain (v : Byte) : (s.setX v).ramMain = s.ramMain := rfl
@[simp] theorem State.setX_ramAux (v : Byte) : (s.setX v).ramAux = s.ramAux := rfl
@[simp] theorem State.setX_kbdLatch (v : Byte) : (s.setX v).kbdLatch = s.kbdLatch := rfl
@[simp] theorem State.setX_sw (v : Byte) : (s.setX v).sw = s.sw := rfl
@[simp] theorem State.setX_timers (v : Byte) : (s.setX v).timers = s.timers := rfl
@[simp] theorem State.setX_video (v : Byte) : (s.setX v).video = s.video := rfl
@[simp] theorem State.setX_audio (v : Byte) : (s.setX v).audio = s.audio := rfl
@[simp] theorem State.setX_disk (v : Byte) : (s.setX v).disk = s.disk := rfl
@[simp] theorem State.setX_draws (v : Byte) : (s.setX v).draws = s.draws := rfl
@[simp] theorem State.setX_cfg (v : Byte) : (s.setX v).cfg = s.cfg := rfl

/-! ## setY -/

@[simp] theorem State.setY_a (v : Byte) : (s.setY v).a = s.a := rfl
@[simp] theorem State.setY_x (v : Byte) : (s.setY v).x = s.x := rfl
@[simp] theorem State.setY_y (v : Byte) : (s.setY v).y = v := rfl
@[simp] theorem State.setY_sp (v : Byte) : (s.setY v).sp = s.sp := rfl
@[simp] theorem State.setY_pc (v : Byte) : (s.setY v).pc = s.pc := rfl
@[simp] theorem State.setY_p (v : Byte) : (s.setY v).p = s.p := rfl
@[simp] theorem State.setY_totalCycle (v : Byte) : (s.setY v).totalCycle = s.totalCycle := rfl
@[simp] theorem State.setY_cycle (v : Byte) : (s.setY v).cycle = s.cycle := rfl
@[simp] theorem State.setY_instructionRun (v : Byte) : (s.setY v).instructionRun = s.instructionRun := rfl
@[simp] theorem State.setY_irqLine (v : Byte) : (s.setY v).irqLine = s.irqLine := rfl
@[simp] theorem State.setY_nmiPending (v : Byte) : (s.setY v).nmiPending = s.nmiPending := rfl
@[simp] theorem State.setY_speed (v : Byte) : (s.setY v).speed = s.speed := rfl
@[simp] theorem State.setY_trapTable (v : Byte) : (s.setY v).trapTable = s.trapTable := rfl
@[simp] theorem State.setY_faultLog (v : Byte) : (s.setY v).faultLog = s.faultLog := rfl
@[simp] theorem State.setY_ramMain (v : Byte) : (s.setY v).ramMain = s.ramMain := rfl
@[simp] theorem State.setY_ramAux (v : Byte) : (s.setY v).ramAux = s.ramAux := rfl
@[simp] theorem State.setY_kbdLatch (v : Byte) : (s.setY v).kbdLatch = s.kbdLatch := rfl
@[simp] theorem State.setY_sw (v : Byte) : (s.setY v).sw = s.sw := rfl
@[simp] theorem State.setY_timers (v : Byte) : (s.setY v).timers = s.timers := rfl
@[simp] theorem State.setY_video (v : Byte) : (s.setY v).video = s.video := rfl
@[simp] theorem State.setY_audio (v : Byte) : (s.setY v).audio = s.audio := rfl
@[simp] theorem State.setY_disk (v : Byte) : (s.setY v).disk = s.disk := rfl
@[simp] theorem State.setY_draws (v : Byte) : (s.setY v).draws = s.draws := rfl
@[simp] theorem State.setY_cfg (v : Byte) : (s.setY v).cfg = s.cfg := rfl

/-! ## setSp -/

@[simp] theorem State.setSp_a (v : Byte) : (s.setSp v).a = s.a := rfl
@[simp] theorem State.setSp_x (v : Byte) : (s.setSp v).x = s.x := rfl
@[simp] theorem State.setSp_y (v : Byte) : (s.setSp v).y = s.y := rfl
@[simp] theorem State.setSp_sp (v : Byte) : (s.setSp v).sp = v := rfl
@[simp] theorem State.setSp_pc (v : Byte) : (s.setSp v).pc = s.pc := rfl
@[simp] theorem State.setSp_p (v : Byte) : (s.setSp v).p = s.p := rfl
@[simp] theorem State.setSp_totalCycle (v : Byte) : (s.setSp v).totalCycle = s.totalCycle := rfl
@[simp] theorem State.setSp_cycle (v : Byte) : (s.setSp v).cycle = s.cycle := rfl
@[simp] theorem State.setSp_instructionRun (v : Byte) : (s.setSp v).instructionRun = s.instructionRun := rfl
@[simp] theorem State.setSp_irqLine (v : Byte) : (s.setSp v).irqLine = s.irqLine := rfl
@[simp] theorem State.setSp_nmiPending (v : Byte) : (s.setSp v).nmiPending = s.nmiPending := rfl
@[simp] theorem State.setSp_speed (v : Byte) : (s.setSp v).speed = s.speed := rfl
@[simp] theorem State.setSp_trapTable (v : Byte) : (s.setSp v).trapTable = s.trapTable := rfl
@[simp] theorem State.setSp_faultLog (v : Byte) : (s.setSp v).faultLog = s.faultLog := rfl
@[simp] theorem State.setSp_ramMain (v : Byte) : (s.setSp v).ramMain = s.ramMain := rfl
@[simp] theorem State.setSp_ramAux (v : Byte) : (s.setSp v).ramAux = s.ramAux := rfl
@[simp] theorem State.setSp_kbdLatch (v : Byte) : (s.setSp v).kbdLatch = s.kbdLatch := rfl
@[simp] theorem State.setSp_sw (v : Byte) : (s.setSp v).sw = s.sw := rfl
@[simp] theorem State.setSp_timers (v : Byte) : (s.setSp v).timers = s.timers := rfl
@[simp] theorem State.setSp_video (v : Byte) : (s.setSp v).video = s.video := rfl
@[simp] theorem State.setSp_audio (v : Byte) : (s.setSp v).audio = s.audio := rfl
@[simp] theorem State.setSp_disk (v : Byte) : (s.setSp v).disk = s.disk := rfl
@[simp] theorem State.setSp_draws (v : Byte) : (s.setSp v).draws = s.draws := rfl
@[simp] theorem State.setSp_cfg (v : Byte) : (s.setSp v).cfg = s.cfg := rfl

/-! ## setPc -/

@[simp] theorem State.setPc_a (v : Addr) : (s.setPc v).a = s.a := rfl
@[simp] theorem State.setPc_x (v : Addr) : (s.setPc v).x = s.x := rfl
@[simp] theorem State.setPc_y (v : Addr) : (s.setPc v).y = s.y := rfl
@[simp] theorem State.setPc_sp (v : Addr) : (s.setPc v).sp = s.sp := rfl
@[simp] theorem State.setPc_pc (v : Addr) : (s.setPc v).pc = v := rfl
@[simp] theorem State.setPc_p (v : Addr) : (s.setPc v).p = s.p := rfl
@[simp] theorem State.setPc_totalCycle (v : Addr) : (s.setPc v).totalCycle = s.totalCycle := rfl
@[simp] theorem State.setPc_cycle (v : Addr) : (s.setPc v).cycle = s.cycle := rfl
@[simp] theorem State.setPc_instructionRun (v : Addr) : (s.setPc v).instructionRun = s.instructionRun := rfl
@[simp] theorem State.setPc_irqLine (v : Addr) : (s.setPc v).irqLine = s.irqLine := rfl
@[simp] theorem State.setPc_nmiPending (v : Addr) : (s.setPc v).nmiPending = s.nmiPending := rfl
@[simp] theorem State.setPc_speed (v : Addr) : (s.setPc v).speed = s.speed := rfl
@[simp] theorem State.setPc_trapTable (v : Addr) : (s.setPc v).trapTable = s.trapTable := rfl
@[simp] theorem State.setPc_faultLog (v : Addr) : (s.setPc v).faultLog = s.faultLog := rfl
@[simp] theorem State.setPc_ramMain (v : Addr) : (s.setPc v).ramMain = s.ramMain := rfl
@[simp] theorem State.setPc_ramAux (v : Addr) : (s.setPc v).ramAux = s.ramAux := rfl
@[simp] theorem State.setPc_kbdLatch (v : Addr) : (s.setPc v).kbdLatch = s.kbdLatch := rfl
@[simp] theorem State.setPc_sw (v : Addr) : (s.setPc v).sw = s.sw := rfl
@[simp] theorem State.setPc_timers (v : Addr) : (s.setPc v).timers = s.timers := rfl
@[simp] theorem State.setPc_video (v : Addr) : (s.setPc v).video = s.video := rfl
@[simp] theorem State.setPc_audio (v : Addr) : (s.setPc v).audio = s.audio := rfl
@[simp] theorem State.setPc_disk (v : Addr) : (s.setPc v).disk = s.disk := rfl
@[simp] theorem State.setPc_draws (v : Addr) : (s.setPc v).draws = s.draws := rfl
@[simp] theorem State.setPc_cfg (v : Addr) : (s.setPc v).cfg = s.cfg := rfl

/-! ## setP -/

@[simp] theorem State.setP_a (f : Flags) : (s.setP f).a = s.a := rfl
@[simp] theorem State.setP_x (f : Flags) : (s.setP f).x = s.x := rfl
@[simp] theorem State.setP_y (f : Flags) : (s.setP f).y = s.y := rfl
@[simp] theorem State.setP_sp (f : Flags) : (s.setP f).sp = s.sp := rfl
@[simp] theorem State.setP_pc (f : Flags) : (s.setP f).pc = s.pc := rfl
@[simp] theorem State.setP_p (f : Flags) : (s.setP f).p = f := rfl
@[simp] theorem State.setP_totalCycle (f : Flags) : (s.setP f).totalCycle = s.totalCycle := rfl
@[simp] theorem State.setP_cycle (f : Flags) : (s.setP f).cycle = s.cycle := rfl
@[simp] theorem State.setP_instructionRun (f : Flags) : (s.setP f).instructionRun = s.instructionRun := rfl
@[simp] theorem State.setP_irqLine (f : Flags) : (s.setP f).irqLine = s.irqLine := rfl
@[simp] theorem State.setP_nmiPending (f : Flags) : (s.setP f).nmiPending = s.nmiPending := rfl
@[simp] theorem State.setP_speed (f : Flags) : (s.setP f).speed = s.speed := rfl
@[simp] theorem State.setP_trapTable (f : Flags) : (s.setP f).trapTable = s.trapTable := rfl
@[simp] theorem State.setP_faultLog (f : Flags) : (s.setP f).faultLog = s.faultLog := rfl
@[simp] theorem State.setP_ramMain (f : Flags) : (s.setP f).ramMain = s.ramMain := rfl
@[simp] theorem State.setP_ramAux (f : Flags) : (s.setP f).ramAux = s.ramAux := rfl
@[simp] theorem State.setP_kbdLatch (f : Flags) : (s.setP f).kbdLatch = s.kbdLatch := rfl
@[simp] theorem State.setP_sw (f : Flags) : (s.setP f).sw = s.sw := rfl
@[simp] theorem State.setP_timers (f : Flags) : (s.setP f).timers = s.timers := rfl
@[simp] theorem State.setP_video (f : Flags) : (s.setP f).video = s.video := rfl
@[simp] theorem State.setP_audio (f : Flags) : (s.setP f).audio = s.audio := rfl
@[simp] theorem State.setP_disk (f : Flags) : (s.setP f).disk = s.disk := rfl
@[simp] theorem State.setP_draws (f : Flags) : (s.setP f).draws = s.draws := rfl
@[simp] theorem State.setP_cfg (f : Flags) : (s.setP f).cfg = s.cfg := rfl

/-! ## charge -/

@[simp] theorem State.charge_a (k : Nat) : (s.charge k).a = s.a := rfl
@[simp] theorem State.charge_x (k : Nat) : (s.charge k).x = s.x := rfl
@[simp] theorem State.charge_y (k : Nat) : (s.charge k).y = s.y := rfl
@[simp] theorem State.charge_sp (k : Nat) : (s.charge k).sp = s.sp := rfl
@[simp] theorem State.charge_pc (k : Nat) : (s.charge k).pc = s.pc := rfl
@[simp] theorem State.charge_p (k : Nat) : (s.charge k).p = s.p := rfl
@[simp] theorem State.charge_totalCycle (k : Nat) : (s.charge k).totalCycle = s.totalCycle + BitVec.ofNat 64 k := rfl
@[simp] theorem State.charge_cycle (k : Nat) : (s.charge k).cycle = s.cycle + BitVec.ofNat 32 k := rfl
@[simp] theorem State.charge_instructionRun (k : Nat) : (s.charge k).instructionRun = s.instructionRun := rfl
@[simp] theorem State.charge_irqLine (k : Nat) : (s.charge k).irqLine = s.irqLine := rfl
@[simp] theorem State.charge_nmiPending (k : Nat) : (s.charge k).nmiPending = s.nmiPending := rfl
@[simp] theorem State.charge_speed (k : Nat) : (s.charge k).speed = s.speed := rfl
@[simp] theorem State.charge_trapTable (k : Nat) : (s.charge k).trapTable = s.trapTable := rfl
@[simp] theorem State.charge_faultLog (k : Nat) : (s.charge k).faultLog = s.faultLog := rfl
@[simp] theorem State.charge_ramMain (k : Nat) : (s.charge k).ramMain = s.ramMain := rfl
@[simp] theorem State.charge_ramAux (k : Nat) : (s.charge k).ramAux = s.ramAux := rfl
@[simp] theorem State.charge_kbdLatch (k : Nat) : (s.charge k).kbdLatch = s.kbdLatch := rfl
@[simp] theorem State.charge_sw (k : Nat) : (s.charge k).sw = s.sw := rfl
@[simp] theorem State.charge_timers (k : Nat) : (s.charge k).timers = s.timers := rfl
@[simp] theorem State.charge_video (k : Nat) : (s.charge k).video = s.video := rfl
@[simp] theorem State.charge_audio (k : Nat) : (s.charge k).audio = s.audio := rfl
@[simp] theorem State.charge_disk (k : Nat) : (s.charge k).disk = s.disk := rfl
@[simp] theorem State.charge_draws (k : Nat) : (s.charge k).draws = s.draws := rfl
@[simp] theorem State.charge_cfg (k : Nat) : (s.charge k).cfg = s.cfg := rfl

/-! ## retire -/

@[simp] theorem State.retire_a (q : Addr) (k : Nat) : (s.retire q k).a = s.a := rfl
@[simp] theorem State.retire_x (q : Addr) (k : Nat) : (s.retire q k).x = s.x := rfl
@[simp] theorem State.retire_y (q : Addr) (k : Nat) : (s.retire q k).y = s.y := rfl
@[simp] theorem State.retire_sp (q : Addr) (k : Nat) : (s.retire q k).sp = s.sp := rfl
@[simp] theorem State.retire_pc (q : Addr) (k : Nat) : (s.retire q k).pc = q := rfl
@[simp] theorem State.retire_p (q : Addr) (k : Nat) : (s.retire q k).p = s.p := rfl
@[simp] theorem State.retire_totalCycle (q : Addr) (k : Nat) : (s.retire q k).totalCycle = s.totalCycle + BitVec.ofNat 64 k := rfl
@[simp] theorem State.retire_cycle (q : Addr) (k : Nat) : (s.retire q k).cycle = s.cycle + BitVec.ofNat 32 k := rfl
@[simp] theorem State.retire_instructionRun (q : Addr) (k : Nat) : (s.retire q k).instructionRun = s.instructionRun := rfl
@[simp] theorem State.retire_irqLine (q : Addr) (k : Nat) : (s.retire q k).irqLine = s.irqLine := rfl
@[simp] theorem State.retire_nmiPending (q : Addr) (k : Nat) : (s.retire q k).nmiPending = s.nmiPending := rfl
@[simp] theorem State.retire_speed (q : Addr) (k : Nat) : (s.retire q k).speed = s.speed := rfl
@[simp] theorem State.retire_trapTable (q : Addr) (k : Nat) : (s.retire q k).trapTable = s.trapTable := rfl
@[simp] theorem State.retire_faultLog (q : Addr) (k : Nat) : (s.retire q k).faultLog = s.faultLog := rfl
@[simp] theorem State.retire_ramMain (q : Addr) (k : Nat) : (s.retire q k).ramMain = s.ramMain := rfl
@[simp] theorem State.retire_ramAux (q : Addr) (k : Nat) : (s.retire q k).ramAux = s.ramAux := rfl
@[simp] theorem State.retire_kbdLatch (q : Addr) (k : Nat) : (s.retire q k).kbdLatch = s.kbdLatch := rfl
@[simp] theorem State.retire_sw (q : Addr) (k : Nat) : (s.retire q k).sw = s.sw := rfl
@[simp] theorem State.retire_timers (q : Addr) (k : Nat) : (s.retire q k).timers = s.timers := rfl
@[simp] theorem State.retire_video (q : Addr) (k : Nat) : (s.retire q k).video = s.video := rfl
@[simp] theorem State.retire_audio (q : Addr) (k : Nat) : (s.retire q k).audio = s.audio := rfl
@[simp] theorem State.retire_disk (q : Addr) (k : Nat) : (s.retire q k).disk = s.disk := rfl
@[simp] theorem State.retire_draws (q : Addr) (k : Nat) : (s.retire q k).draws = s.draws := rfl
@[simp] theorem State.retire_cfg (q : Addr) (k : Nat) : (s.retire q k).cfg = s.cfg := rfl

/-! ## logFault -/

@[simp] theorem State.logFault_a (q : Addr) (op : Byte) : (s.logFault q op).a = s.a := rfl
@[simp] theorem State.logFault_x (q : Addr) (op : Byte) : (s.logFault q op).x = s.x := rfl
@[simp] theorem State.logFault_y (q : Addr) (op : Byte) : (s.logFault q op).y = s.y := rfl
@[simp] theorem State.logFault_sp (q : Addr) (op : Byte) : (s.logFault q op).sp = s.sp := rfl
@[simp] theorem State.logFault_pc (q : Addr) (op : Byte) : (s.logFault q op).pc = s.pc := rfl
@[simp] theorem State.logFault_p (q : Addr) (op : Byte) : (s.logFault q op).p = s.p := rfl
@[simp] theorem State.logFault_totalCycle (q : Addr) (op : Byte) : (s.logFault q op).totalCycle = s.totalCycle := rfl
@[simp] theorem State.logFault_cycle (q : Addr) (op : Byte) : (s.logFault q op).cycle = s.cycle := rfl
@[simp] theorem State.logFault_instructionRun (q : Addr) (op : Byte) : (s.logFault q op).instructionRun = s.instructionRun := rfl
@[simp] theorem State.logFault_irqLine (q : Addr) (op : Byte) : (s.logFault q op).irqLine = s.irqLine := rfl
@[simp] theorem State.logFault_nmiPending (q : Addr) (op : Byte) : (s.logFault q op).nmiPending = s.nmiPending := rfl
@[simp] theorem State.logFault_speed (q : Addr) (op : Byte) : (s.logFault q op).speed = s.speed := rfl
@[simp] theorem State.logFault_trapTable (q : Addr) (op : Byte) : (s.logFault q op).trapTable = s.trapTable := rfl
@[simp] theorem State.logFault_faultLog (q : Addr) (op : Byte) : (s.logFault q op).faultLog = s.faultLog ++ [(q, op)] := rfl
@[simp] theorem State.logFault_ramMain (q : Addr) (op : Byte) : (s.logFault q op).ramMain = s.ramMain := rfl
@[simp] theorem State.logFault_ramAux (q : Addr) (op : Byte) : (s.logFault q op).ramAux = s.ramAux := rfl
@[simp] theorem State.logFault_kbdLatch (q : Addr) (op : Byte) : (s.logFault q op).kbdLatch = s.kbdLatch := rfl
@[simp] theorem State.logFault_sw (q : Addr) (op : Byte) : (s.logFault q op).sw = s.sw := rfl
@[simp] theorem State.logFault_timers (q : Addr) (op : Byte) : (s.logFault q op).timers = s.timers := rfl
@[simp] theorem State.logFault_video (q : Addr) (op : Byte) : (s.logFault q op).video = s.video := rfl
@[simp] theorem State.logFault_audio (q : Addr) (op : Byte) : (s.logFault q op).audio = s.audio := rfl
@[simp] theorem State.logFault_disk (q : Addr) (op : Byte) : (s.logFault q op).disk = s.disk := rfl
@[simp] theorem State.logFault_draws (q : Addr) (op : Byte) : (s.logFault q op).draws = s.draws := rfl
@[simp] theorem State.logFault_cfg (q : Addr) (op : Byte) : (s.logFault q op).cfg = s.cfg := rfl

/-! ## setRam -/

@[simp] theorem State.setRam_a (b : Bank) (n : Nat) (v : Byte) : (s.setRam b n v).a = s.a := rfl
@[simp] theorem State.setRam_x (b : Bank) (n : Nat) (v : Byte) : (s.setRam b n v).x = s.x := rfl
@[simp] theorem State.setRam_y (b : Bank) (n : Nat) (v : Byte) : (s.setRam b n v).y = s.y := rfl
@[simp] theorem State.setRam_sp (b : Bank) (n : Nat) (v : Byte) : (s.setRam b n v).sp = s.sp := rfl
@[simp] theorem State.setRam_pc (b : Bank) (n : Nat) (v : Byte) : (s.setRam b n v).pc = s.pc := rfl
@[simp] theorem State.setRam_p (b : Bank) (n : Nat) (v : Byte) : (s.setRam b n v).p = s.p := rfl
@[simp] theorem State.setRam_totalCycle (b : Bank) (n : Nat) (v : Byte) : (s.setRam b n v).totalCycle = s.totalCycle := rfl
@[simp] theorem State.setRam_cycle (b : Bank) (n : Nat) (v : Byte) : (s.setRam b n v).cycle = s.cycle := rfl
@[simp] theorem State.setRam_instructionRun (b : Bank) (n : Nat) (v : Byte) : (s.setRam b n v).instructionRun = s.instructionRun := rfl
@[simp] theorem State.setRam_irqLine (b : Bank) (n : Nat) (v : Byte) : (s.setRam b n v).irqLine = s.irqLine := rfl
@[simp] theorem State.setRam_nmiPending (b : Bank) (n : Nat) (v : Byte) : (s.setRam b n v).nmiPending = s.nmiPending := rfl
@[simp] theorem State.setRam_speed (b : Bank) (n : Nat) (v : Byte) : (s.setRam b n v).speed = s.speed := rfl
@[simp] theorem State.setRam_trapTable (b : Bank) (n : Nat) (v : Byte) : (s.setRam b n v).trapTable = s.trapTable := rfl
@[simp] theorem State.setRam_faultLog (b : Bank) (n : Nat) (v : Byte) : (s.setRam b n v).faultLog = s.faultLog := rfl
@[simp] theorem State.setRam_ramMain (b : Bank) (n : Nat) (v : Byte) : (s.setRam b n v).ramMain = if b = .main then Memory.write s.ramMain n v else s.ramMain := rfl
@[simp] theorem State.setRam_ramAux (b : Bank) (n : Nat) (v : Byte) : (s.setRam b n v).ramAux = if b = .aux then Memory.write s.ramAux n v else s.ramAux := rfl
@[simp] theorem State.setRam_kbdLatch (b : Bank) (n : Nat) (v : Byte) : (s.setRam b n v).kbdLatch = s.kbdLatch := rfl
@[simp] theorem State.setRam_sw (b : Bank) (n : Nat) (v : Byte) : (s.setRam b n v).sw = s.sw := rfl
@[simp] theorem State.setRam_timers (b : Bank) (n : Nat) (v : Byte) : (s.setRam b n v).timers = s.timers := rfl
@[simp] theorem State.setRam_video (b : Bank) (n : Nat) (v : Byte) : (s.setRam b n v).video = s.video := rfl
@[simp] theorem State.setRam_audio (b : Bank) (n : Nat) (v : Byte) : (s.setRam b n v).audio = s.audio := rfl
@[simp] theorem State.setRam_disk (b : Bank) (n : Nat) (v : Byte) : (s.setRam b n v).disk = s.disk := rfl
@[simp] theorem State.setRam_draws (b : Bank) (n : Nat) (v : Byte) : (s.setRam b n v).draws = s.draws := rfl
@[simp] theorem State.setRam_cfg (b : Bank) (n : Nat) (v : Byte) : (s.setRam b n v).cfg = s.cfg := rfl

/-! ## ioEffect -/

@[simp] theorem State.ioEffect_a (off : Byte) (acc : Access) :
    (s.ioEffect off acc).a = s.a := rfl
@[simp] theorem State.ioEffect_x (off : Byte) (acc : Access) :
    (s.ioEffect off acc).x = s.x := rfl
@[simp] theorem State.ioEffect_y (off : Byte) (acc : Access) :
    (s.ioEffect off acc).y = s.y := rfl
@[simp] theorem State.ioEffect_sp (off : Byte) (acc : Access) :
    (s.ioEffect off acc).sp = s.sp := rfl
@[simp] theorem State.ioEffect_pc (off : Byte) (acc : Access) :
    (s.ioEffect off acc).pc = s.pc := rfl
@[simp] theorem State.ioEffect_p (off : Byte) (acc : Access) :
    (s.ioEffect off acc).p = s.p := rfl
@[simp] theorem State.ioEffect_totalCycle (off : Byte) (acc : Access) :
    (s.ioEffect off acc).totalCycle = s.totalCycle := rfl
@[simp] theorem State.ioEffect_cycle (off : Byte) (acc : Access) :
    (s.ioEffect off acc).cycle = s.cycle := rfl
@[simp] theorem State.ioEffect_instructionRun (off : Byte) (acc : Access) :
    (s.ioEffect off acc).instructionRun = s.instructionRun := rfl
@[simp] theorem State.ioEffect_irqLine (off : Byte) (acc : Access) :
    (s.ioEffect off acc).irqLine = s.irqLine := rfl
@[simp] theorem State.ioEffect_nmiPending (off : Byte) (acc : Access) :
    (s.ioEffect off acc).nmiPending = s.nmiPending := rfl
@[simp] theorem State.ioEffect_speed (off : Byte) (acc : Access) :
    (s.ioEffect off acc).speed = s.speed := rfl
@[simp] theorem State.ioEffect_trapTable (off : Byte) (acc : Access) :
    (s.ioEffect off acc).trapTable = s.trapTable := rfl
@[simp] theorem State.ioEffect_faultLog (off : Byte) (acc : Access) :
    (s.ioEffect off acc).faultLog = s.faultLog := rfl
@[simp] theorem State.ioEffect_ramMain (off : Byte) (acc : Access) :
    (s.ioEffect off acc).ramMain = s.ramMain := rfl
@[simp] theorem State.ioEffect_ramAux (off : Byte) (acc : Access) :
    (s.ioEffect off acc).ramAux = s.ramAux := rfl
@[simp] theorem State.ioEffect_kbdLatch (off : Byte) (acc : Access) :
    (s.ioEffect off acc).kbdLatch = if off = 0x10#8 then s.kbdLatch &&& 0x7F#8 else s.kbdLatch := rfl
@[simp] theorem State.ioEffect_sw (off : Byte) (acc : Access) :
    (s.ioEffect off acc).sw = s.sw.access s.cfg off acc := rfl
@[simp] theorem State.ioEffect_timers (off : Byte) (acc : Access) :
    (s.ioEffect off acc).timers = s.timers := rfl
@[simp] theorem State.ioEffect_video (off : Byte) (acc : Access) :
    (s.ioEffect off acc).video = if off = 0x0E#8 ∨ off = 0x0F#8 then { s.video with blinkTextDirty := true } else s.video := rfl
@[simp] theorem State.ioEffect_audio (off : Byte) (acc : Access) :
    (s.ioEffect off acc).audio = if off = 0x30#8 then s.audio.click s.cfg s.totalCycle.toNat else s.audio := rfl
@[simp] theorem State.ioEffect_disk (off : Byte) (acc : Access) :
    (s.ioEffect off acc).disk = if isDiskOffset s.cfg off then s.disk.access s.cfg (off.extractLsb' 0 4) acc.written else s.disk := rfl
@[simp] theorem State.ioEffect_draws (off : Byte) (acc : Access) :
    (s.ioEffect off acc).draws = s.draws := rfl
@[simp] theorem State.ioEffect_cfg (off : Byte) (acc : Access) :
    (s.ioEffect off acc).cfg = s.cfg := rfl

/-! ## diskStep -/

@[simp] theorem diskStep_a (k : Nat) : (diskStep k s).a = s.a := rfl
@[simp] theorem diskStep_x (k : Nat) : (diskStep k s).x = s.x := rfl
@[simp] theorem diskStep_y (k : Nat) : (diskStep k s).y = s.y := rfl
@[simp] theorem diskStep_sp (k : Nat) : (diskStep k s).sp = s.sp := rfl
@[simp] theorem diskStep_pc (k : Nat) : (diskStep k s).pc = s.pc := rfl
@[simp] theorem diskStep_p (k : Nat) : (diskStep k s).p = s.p := rfl
@[simp] theorem diskStep_totalCycle (k : Nat) : (diskStep k s).totalCycle = s.totalCycle := rfl
@[simp] theorem diskStep_cycle (k : Nat) : (diskStep k s).cycle = s.cycle := rfl
@[simp] theorem diskStep_instructionRun (k : Nat) : (diskStep k s).instructionRun = s.instructionRun := rfl
@[simp] theorem diskStep_irqLine (k : Nat) : (diskStep k s).irqLine = s.irqLine := rfl
@[simp] theorem diskStep_nmiPending (k : Nat) : (diskStep k s).nmiPending = s.nmiPending := rfl
@[simp] theorem diskStep_speed (k : Nat) : (diskStep k s).speed = s.speed := rfl
@[simp] theorem diskStep_trapTable (k : Nat) : (diskStep k s).trapTable = s.trapTable := rfl
@[simp] theorem diskStep_faultLog (k : Nat) : (diskStep k s).faultLog = s.faultLog := rfl
@[simp] theorem diskStep_ramMain (k : Nat) : (diskStep k s).ramMain = s.ramMain := rfl
@[simp] theorem diskStep_ramAux (k : Nat) : (diskStep k s).ramAux = s.ramAux := rfl
@[simp] theorem diskStep_kbdLatch (k : Nat) : (diskStep k s).kbdLatch = s.kbdLatch := rfl
@[simp] theorem diskStep_sw (k : Nat) : (diskStep k s).sw = s.sw := rfl
@[simp] theorem diskStep_timers (k : Nat) : (diskStep k s).timers = s.timers := rfl
@[simp] theorem diskStep_video (k : Nat) : (diskStep k s).video = s.video := rfl
@[simp] theorem diskStep_audio (k : Nat) : (diskStep k s).audio = s.audio := rfl
@[simp] theorem diskStep_disk (k : Nat) : (diskStep k s).disk = (s.disk.run s.cfg k s.draws).1 := rfl
@[simp] theorem diskStep_draws (k : Nat) : (diskStep k s).draws = (s.disk.run s.cfg k s.draws).2 := rfl
@[simp] theorem diskStep_cfg (k : Nat) : (diskStep k s).cfg = s.cfg := rfl

/-! ## Queries that look at few fields -/

@[simp] theorem State.ram_setA (v : Byte) (b : Bank) : (s.setA v).ram b = s.ram b := rfl
@[simp] theorem State.ram_setX (v : Byte) (b : Bank) : (s.setX v).ram b = s.ram b := rfl
@[simp] theorem State.ram_setY (v : Byte) (b : Bank) : (s.setY v).ram b = s.ram b := rfl
@[simp] theorem State.ram_setSp (v : Byte) (b : Bank) : (s.setSp v).ram b = s.ram b := rfl
@[simp] theorem State.ram_setPc (v : Addr) (b : Bank) : (s.setPc v).ram b = s.ram b := rfl
@[simp] theorem State.ram_setP (f : Flags) (b : Bank) : (s.setP f).ram b = s.ram b := rfl
@[simp] theorem State.ram_charge (k : Nat) (b : Bank) : (s.charge k).ram b = s.ram b := rfl
@[simp] theorem State.ram_retire (q : Addr) (k : Nat) (b : Bank) : (s.retire q k).ram b = s.ram b := rfl
@[simp] theorem State.ram_ioEffect (off : Byte) (acc : Access) (b : Bank) : (s.ioEffect off acc).ram b = s.ram b := rfl
@[simp] theorem State.bankOf_setSp (v : Byte) (q : Addr) (w : Bool) : (s.setSp v).bankOf q w = s.bankOf q w := rfl
@[simp] theorem State.bankOf_setPc (v : Addr) (q : Addr) (w : Bool) : (s.setPc v).bankOf q w = s.bankOf q w := rfl
@[simp] theorem State.bankOf_setP (f : Flags) (q : Addr) (w : Bool) : (s.setP f).bankOf q w = s.bankOf q w := rfl
@[simp] theorem State.bankOf_setRam (b : Bank) (n : Nat) (v : Byte) (q : Addr) (w : Bool) :
    (s.setRam b n v).bankOf q w = s.bankOf q w := rfl

/-- The RAM of a bank after one byte of a bank is replaced. -/
@[simp] theorem State.ram_setRam (b b' : Bank) (n : Nat) (v : Byte) :
    (s.setRam b n v).ram b' = if b = b' then Memory.write (s.ram b') n v else s.ram b' := by
  cases b <;> cases b' <;> rfl

end Sys2Proof.Machine
end

