-- ==== Sys2Proof/Laws/Bus.lean ====
section
/-! SUPPORT. What bus accesses, pointer reads and stack operations change and leave unchanged, once for every caller. -/

namespace Sys2Proof.Machine

variable (s : State)

/-! ## Addresses -/

@[simp] theorem zeroPage_toNat (z : Byte) : (zeroPage z).toNat = z.toNat := by
  have h := z.isLt
  simp only [zeroPage, wordOf, BitVec.toNat_append, BitVec.toNat_ofNat]
  simp

@[simp] theorem stackAddr_toNat (sp : Byte) : (stackAddr sp).toNat = 256 + sp.toNat := by
  have h := sp.isLt
  simp only [stackAddr, wordOf, BitVec.toNat_append, BitVec.toNat_ofNat]
  rw [Nat.shiftLeft_eq, Nat.mul_comm, ← Nat.two_pow_add_eq_or_of_lt h]

/-- The zero page is RAM. -/
theorem zeroPage_lt (z : Byte) : (zeroPage z).toNat < 0xC000 := by
  have h := z.isLt
  rw [zeroPage_toNat]
  omega

/-- The stack page is RAM. -/
theorem stackAddr_lt (sp : Byte) : (stackAddr sp).toNat < 0xC000 := by
  have h := sp.isLt
  rw [stackAddr_toNat]
  omega

/-! ## A read of the bus -/

/-- A read of $0000-$BFFF gives the byte of the selected bank and changes nothing. -/
theorem busRead_ram {q : Addr} (h : q.toNat < 0xC000) :
    busRead q s = (Memory.read (s.ram (s.bankOf q false)) q.toNat, s) := by
  simp [busRead, h]

/-- A read of $C100-$FFFF gives a byte of the ROM image or of a card and changes nothing. -/
theorem busRead_rom {q : Addr} (h : 0xC100 ≤ q.toNat) :
    busRead q s = (if q.toNat < 0xD000 then cardRomByte s.cfg q.toNat else romByte s.cfg (q.toNat - 0xC000), s) := by
  have h1 : ¬ q.toNat < 0xC000 := by omega
  have h2 : ¬ q.toNat < 0xC100 := by omega
  simp only [busRead, h1, h2, if_false]
  split <;> rfl

/-- A read outside the I/O page changes nothing. -/
theorem busRead_quiet {q : Addr} (h : q.toNat < 0xC000 ∨ 0xC100 ≤ q.toNat) : (busRead q s).2 = s := by
  obtain h | h := h
  · rw [busRead_ram s h]
  · rw [busRead_rom s h]

/-- A read of the I/O page is the I/O page's read. -/
theorem busRead_io {q : Addr} (h : 0xC000 ≤ q.toNat) (h' : q.toNat < 0xC100) : busRead q s = s.ioRead (lowByte q) := by
  have h1 : ¬ q.toNat < 0xC000 := by omega
  simp [busRead, h1, h']

/-- A read through the I/O page has the page's side effects, and may draw once. -/
theorem State.ioRead_state (off : Byte) :
    (s.ioRead off).2 = s.ioEffect off .read ∨ (s.ioRead off).2 = { s.ioEffect off .read with draws := s.draws + 1 } := by
  unfold State.ioRead
  split
  · exact .inl rfl
  · exact .inr rfl

/-- Everything a read can do to the state. -/
theorem busRead_cases (q : Addr) :
    (busRead q s).2 = s ∨ (busRead q s).2 = s.ioEffect (lowByte q) .read
      ∨ (busRead q s).2 = { s.ioEffect (lowByte q) .read with draws := s.draws + 1 } := by
  by_cases h : q.toNat < 0xC000
  · exact .inl (busRead_quiet s (.inl h))
  · by_cases h' : q.toNat < 0xC100
    · rw [busRead_io s (by omega) h']
      exact .inr (s.ioRead_state _)
    · exact .inl (busRead_quiet s (.inr (by omega)))

@[simp] theorem busRead_a (q : Addr) : (busRead q s).2.a = s.a := by
  obtain h | h | h := busRead_cases s q <;> rw [h] <;> rfl
@[simp] theorem busRead_x (q : Addr) : (busRead q s).2.x = s.x := by
  obtain h | h | h := busRead_cases s q <;> rw [h] <;> rfl
@[simp] theorem busRead_y (q : Addr) : (busRead q s).2.y = s.y := by
  obtain h | h | h := busRead_cases s q <;> rw [h] <;> rfl
@[simp] theorem busRead_sp (q : Addr) : (busRead q s).2.sp = s.sp := by
  obtain h | h | h := busRead_cases s q <;> rw [h] <;> rfl
@[simp] theorem busRead_pc (q : Addr) : (busRead q s).2.pc = s.pc := by
  obtain h | h | h := busRead_cases s q <;> rw [h] <;> rfl
@[simp] theorem busRead_p (q : Addr) : (busRead q s).2.p = s.p := by
  obtain h | h | h := busRead_cases s q <;> rw [h] <;> rfl
@[simp] theorem busRead_totalCycle (q : Addr) : (busRead q s).2.totalCycle = s.totalCycle := by
  obtain h | h | h := busRead_cases s q <;> rw [h] <;> rfl
@[simp] theorem busRead_cycle (q : Addr) : (busRead q s).2.cycle = s.cycle := by
  obtain h | h | h := busRead_cases s q <;> rw [h] <;> rfl
@[simp] theorem busRead_instructionRun (q : Addr) : (busRead q s).2.instructionRun = s.instructionRun := by
  obtain h | h | h := busRead_cases s q <;> rw [h] <;> rfl
@[simp] theorem busRead_irqLine (q : Addr) : (busRead q s).2.irqLine = s.irqLine := by
  obtain h | h | h := busRead_cases s q <;> rw [h] <;> rfl
@[simp] theorem busRead_nmiPending (q : Addr) : (busRead q s).2.nmiPending = s.nmiPending := by
  obtain h | h | h := busRead_cases s q <;> rw [h] <;> rfl
@[simp] theorem busRead_speed (q : Addr) : (busRead q s).2.speed = s.speed := by
  obtain h | h | h := busRead_cases s q <;> rw [h] <;> rfl
@[simp] theorem busRead_trapTable (q : Addr) : (busRead q s).2.trapTable = s.trapTable := by
  obtain h | h | h := busRead_cases s q <;> rw [h] <;> rfl
@[simp] theorem busRead_faultLog (q : Addr) : (busRead q s).2.faultLog = s.faultLog := by
  obtain h | h | h := busRead_cases s q <;> rw [h] <;> rfl
@[simp] theorem busRead_timers (q : Addr) : (busRead q s).2.timers = s.timers := by
  obtain h | h | h := busRead_cases s q <;> rw [h] <;> rfl
@[simp] theorem busRead_cfg (q : Addr) : (busRead q s).2.cfg = s.cfg := by
  obtain h | h | h := busRead_cases s q <;> rw [h] <;> rfl
@[simp] theorem busRead_ramMain (q : Addr) : (busRead q s).2.ramMain = s.ramMain := by
  obtain h | h | h := busRead_cases s q <;> rw [h] <;> rfl
@[simp] theorem busRead_ramAux (q : Addr) : (busRead q s).2.ramAux = s.ramAux := by
  obtain h | h | h := busRead_cases s q <;> rw [h] <;> rfl
@[simp] theorem busRead_ramOf (q : Addr) (b : Bank) : (busRead q s).2.ram b = s.ram b := by
  cases b <;> simp [State.ram]

/-! ## A write of the bus -/

/-- A write of $0000-$BFFF writes the byte of the selected bank. -/
theorem busWrite_ram {q : Addr} (v : Byte) (h : q.toNat < 0xC000) :
    busWrite q v s = s.setRam (s.bankOf q true) q.toNat v := by
  simp [busWrite, h]

/-- A write of $C100-$FFFF has no effect. -/
theorem busWrite_rom {q : Addr} (v : Byte) (h : 0xC100 ≤ q.toNat) : busWrite q v s = s := by
  have h1 : ¬ q.toNat < 0xC000 := by omega
  have h2 : ¬ q.toNat < 0xC100 := by omega
  simp [busWrite, h1, h2]

/-- A write of the I/O page has the page's side effects. -/
theorem busWrite_io {q : Addr} (v : Byte) (h : 0xC000 ≤ q.toNat) (h' : q.toNat < 0xC100) :
    busWrite q v s = s.ioEffect (lowByte q) (.write v) := by
  have h1 : ¬ q.toNat < 0xC000 := by omega
  simp [busWrite, h1, h']

/-- Everything a write can do. -/
theorem busWrite_cases (q : Addr) (v : Byte) :
    (q.toNat < 0xC000 ∧ busWrite q v s = s.setRam (s.bankOf q true) q.toNat v)
      ∨ (0xC000 ≤ q.toNat ∧ busWrite q v s = s.ioEffect (lowByte q) (.write v))
      ∨ (0xC000 ≤ q.toNat ∧ busWrite q v s = s) := by
  by_cases h : q.toNat < 0xC000
  · exact .inl ⟨h, busWrite_ram s v h⟩
  · by_cases h' : q.toNat < 0xC100
    · exact .inr (.inl ⟨by omega, busWrite_io s v (by omega) h'⟩)
    · exact .inr (.inr ⟨by omega, busWrite_rom s v (by omega)⟩)

@[simp] theorem busWrite_a (q : Addr) (v : Byte) : (busWrite q v s).a = s.a := by
  obtain ⟨_, h⟩ | ⟨_, h⟩ | ⟨_, h⟩ := busWrite_cases s q v <;> rw [h] <;> rfl
@[simp] theorem busWrite_x (q : Addr) (v : Byte) : (busWrite q v s).x = s.x := by
  obtain ⟨_, h⟩ | ⟨_, h⟩ | ⟨_, h⟩ := busWrite_cases s q v <;> rw [h] <;> rfl
@[simp] theorem busWrite_y (q : Addr) (v : Byte) : (busWrite q v s).y = s.y := by
  obtain ⟨_, h⟩ | ⟨_, h⟩ | ⟨_, h⟩ := busWrite_cases s q v <;> rw [h] <;> rfl
@[simp] theorem busWrite_sp (q : Addr) (v : Byte) : (busWrite q v s).sp = s.sp := by
  obtain ⟨_, h⟩ | ⟨_, h⟩ | ⟨_, h⟩ := busWrite_cases s q v <;> rw [h] <;> rfl
@[simp] theorem busWrite_pc (q : Addr) (v : Byte) : (busWrite q v s).pc = s.pc := by
  obtain ⟨_, h⟩ | ⟨_, h⟩ | ⟨_, h⟩ := busWrite_cases s q v <;> rw [h] <;> rfl
@[simp] theorem busWrite_p (q : Addr) (v : Byte) : (busWrite q v s).p = s.p := by
  obtain ⟨_, h⟩ | ⟨_, h⟩ | ⟨_, h⟩ := busWrite_cases s q v <;> rw [h] <;> rfl
@[simp] theorem busWrite_totalCycle (q : Addr) (v : Byte) : (busWrite q v s).totalCycle = s.totalCycle := by
  obtain ⟨_, h⟩ | ⟨_, h⟩ | ⟨_, h⟩ := busWrite_cases s q v <;> rw [h] <;> rfl
@[simp] theorem busWrite_cycle (q : Addr) (v : Byte) : (busWrite q v s).cycle = s.cycle := by
  obtain ⟨_, h⟩ | ⟨_, h⟩ | ⟨_, h⟩ := busWrite_cases s q v <;> rw [h] <;> rfl
@[simp] theorem busWrite_instructionRun (q : Addr) (v : Byte) : (busWrite q v s).instructionRun = s.instructionRun := by
  obtain ⟨_, h⟩ | ⟨_, h⟩ | ⟨_, h⟩ := busWrite_cases s q v <;> rw [h] <;> rfl
@[simp] theorem busWrite_irqLine (q : Addr) (v : Byte) : (busWrite q v s).irqLine = s.irqLine := by
  obtain ⟨_, h⟩ | ⟨_, h⟩ | ⟨_, h⟩ := busWrite_cases s q v <;> rw [h] <;> rfl
@[simp] theorem busWrite_nmiPending (q : Addr) (v : Byte) : (busWrite q v s).nmiPending = s.nmiPending := by
  obtain ⟨_, h⟩ | ⟨_, h⟩ | ⟨_, h⟩ := busWrite_cases s q v <;> rw [h] <;> rfl
@[simp] theorem busWrite_speed (q : Addr) (v : Byte) : (busWrite q v s).speed = s.speed := by
  obtain ⟨_, h⟩ | ⟨_, h⟩ | ⟨_, h⟩ := busWrite_cases s q v <;> rw [h] <;> rfl
@[simp] theorem busWrite_trapTable (q : Addr) (v : Byte) : (busWrite q v s).trapTable = s.trapTable := by
  obtain ⟨_, h⟩ | ⟨_, h⟩ | ⟨_, h⟩ := busWrite_cases s q v <;> rw [h] <;> rfl
@[simp] theorem busWrite_faultLog (q : Addr) (v : Byte) : (busWrite q v s).faultLog = s.faultLog := by
  obtain ⟨_, h⟩ | ⟨_, h⟩ | ⟨_, h⟩ := busWrite_cases s q v <;> rw [h] <;> rfl
@[simp] theorem busWrite_timers (q : Addr) (v : Byte) : (busWrite q v s).timers = s.timers := by
  obtain ⟨_, h⟩ | ⟨_, h⟩ | ⟨_, h⟩ := busWrite_cases s q v <;> rw [h] <;> rfl
@[simp] theorem busWrite_cfg (q : Addr) (v : Byte) : (busWrite q v s).cfg = s.cfg := by
  obtain ⟨_, h⟩ | ⟨_, h⟩ | ⟨_, h⟩ := busWrite_cases s q v <;> rw [h] <;> rfl

/-- The RAM of a bank after a write: one byte of it, if the write is to RAM and selects that bank. -/
theorem busWrite_ramOf (q : Addr) (v : Byte) (b : Bank) :
    (busWrite q v s).ram b =
      if q.toNat < 0xC000 ∧ s.bankOf q true = b then Memory.write (s.ram b) q.toNat v else s.ram b := by
  obtain ⟨hl, h⟩ | ⟨hl, h⟩ | ⟨hl, h⟩ := busWrite_cases s q v
  · rw [h, State.ram_setRam]
    simp [hl]
  · rw [h, State.ram_ioEffect, if_neg (fun hc => absurd hc.1 (by omega))]
  · rw [h, if_neg (fun hc => absurd hc.1 (by omega))]

/-- A write leaves every RAM byte at another address alone. -/
theorem busWrite_byteAt_other {q : Addr} {v : Byte} {b : Bank} {n : Nat} (h : n ≠ q.toNat) :
    Memory.read ((busWrite q v s).ram b) n = Memory.read (s.ram b) n := by
  rw [busWrite_ramOf]
  split
  · exact Memory.read_write_other h _
  · rfl

/-! ## Two-byte reads -/

@[simp] theorem read16_a (q : Addr) : (read16 q s).2.a = s.a := by simp [read16]
@[simp] theorem read16_x (q : Addr) : (read16 q s).2.x = s.x := by simp [read16]
@[simp] theorem read16_y (q : Addr) : (read16 q s).2.y = s.y := by simp [read16]
@[simp] theorem read16_sp (q : Addr) : (read16 q s).2.sp = s.sp := by simp [read16]
@[simp] theorem read16_pc (q : Addr) : (read16 q s).2.pc = s.pc := by simp [read16]
@[simp] theorem read16_p (q : Addr) : (read16 q s).2.p = s.p := by simp [read16]
@[simp] theorem read16_totalCycle (q : Addr) : (read16 q s).2.totalCycle = s.totalCycle := by simp [read16]
@[simp] theorem read16_cycle (q : Addr) : (read16 q s).2.cycle = s.cycle := by simp [read16]
@[simp] theorem read16_instructionRun (q : Addr) : (read16 q s).2.instructionRun = s.instructionRun := by simp [read16]
@[simp] theorem read16_irqLine (q : Addr) : (read16 q s).2.irqLine = s.irqLine := by simp [read16]
@[simp] theorem read16_nmiPending (q : Addr) : (read16 q s).2.nmiPending = s.nmiPending := by simp [read16]
@[simp] theorem read16_speed (q : Addr) : (read16 q s).2.speed = s.speed := by simp [read16]
@[simp] theorem read16_trapTable (q : Addr) : (read16 q s).2.trapTable = s.trapTable := by simp [read16]
@[simp] theorem read16_faultLog (q : Addr) : (read16 q s).2.faultLog = s.faultLog := by simp [read16]
@[simp] theorem read16_timers (q : Addr) : (read16 q s).2.timers = s.timers := by simp [read16]
@[simp] theorem read16_cfg (q : Addr) : (read16 q s).2.cfg = s.cfg := by simp [read16]
@[simp] theorem read16_ramMain (q : Addr) : (read16 q s).2.ramMain = s.ramMain := by simp [read16]
@[simp] theorem read16_ramAux (q : Addr) : (read16 q s).2.ramAux = s.ramAux := by simp [read16]

/-- A pointer read from the zero page: two bytes of RAM, the second from the next zero-page address; nothing changes. -/
theorem read16zp_eq (z : Byte) :
    read16zp z s = (wordOf (Memory.read (s.ram (s.bankOf (zeroPage z) false)) z.toNat)
      (Memory.read (s.ram (s.bankOf (zeroPage (z + 1)) false)) (z + 1).toNat), s) := by
  simp only [read16zp, busRead_ram _ (zeroPage_lt _), zeroPage_toNat]

@[simp] theorem read16zp_state (z : Byte) : (read16zp z s).2 = s := by rw [read16zp_eq]

/-! ## The stack -/

/-- A push writes the RAM byte at `$0100 | S` and decrements S. -/
theorem push_eq (v : Byte) :
    push v s = (s.setRam (s.bankOf (stackAddr s.sp) true) (256 + s.sp.toNat) v).setSp (s.sp - 1) := by
  rw [push, busWrite_ram s v (stackAddr_lt s.sp), stackAddr_toNat]

/-- A pull increments S and gives the RAM byte at `$0100 | S`. -/
theorem pull_eq :
    pull s = (Memory.read (s.ram (s.bankOf (stackAddr (s.sp + 1)) false)) (256 + (s.sp + 1).toNat), s.setSp (s.sp + 1)) := by
  rw [pull, busRead_ram _ (stackAddr_lt _), stackAddr_toNat]
  rfl

@[simp] theorem pull_state : (pull s).2 = s.setSp (s.sp + 1) := by rw [pull_eq]

@[simp] theorem push_sp (v : Byte) : (push v s).sp = s.sp - 1 := rfl

@[simp] theorem push_a (v : Byte) : (push v s).a = s.a := by simp [push_eq]
@[simp] theorem push_x (v : Byte) : (push v s).x = s.x := by simp [push_eq]
@[simp] theorem push_y (v : Byte) : (push v s).y = s.y := by simp [push_eq]
@[simp] theorem push_pc (v : Byte) : (push v s).pc = s.pc := by simp [push_eq]
@[simp] theorem push_p (v : Byte) : (push v s).p = s.p := by simp [push_eq]
@[simp] theorem push_totalCycle (v : Byte) : (push v s).totalCycle = s.totalCycle := by simp [push_eq]
@[simp] theorem push_cycle (v : Byte) : (push v s).cycle = s.cycle := by simp [push_eq]
@[simp] theorem push_instructionRun (v : Byte) : (push v s).instructionRun = s.instructionRun := by simp [push_eq]
@[simp] theorem push_irqLine (v : Byte) : (push v s).irqLine = s.irqLine := by simp [push_eq]
@[simp] theorem push_nmiPending (v : Byte) : (push v s).nmiPending = s.nmiPending := by simp [push_eq]
@[simp] theorem push_speed (v : Byte) : (push v s).speed = s.speed := by simp [push_eq]
@[simp] theorem push_trapTable (v : Byte) : (push v s).trapTable = s.trapTable := by simp [push_eq]
@[simp] theorem push_faultLog (v : Byte) : (push v s).faultLog = s.faultLog := by simp [push_eq]
@[simp] theorem push_timers (v : Byte) : (push v s).timers = s.timers := by simp [push_eq]
@[simp] theorem push_cfg (v : Byte) : (push v s).cfg = s.cfg := by simp [push_eq]
@[simp] theorem push_kbdLatch (v : Byte) : (push v s).kbdLatch = s.kbdLatch := by simp [push_eq]
@[simp] theorem push_sw (v : Byte) : (push v s).sw = s.sw := by simp [push_eq]
@[simp] theorem push_video (v : Byte) : (push v s).video = s.video := by simp [push_eq]
@[simp] theorem push_audio (v : Byte) : (push v s).audio = s.audio := by simp [push_eq]
@[simp] theorem push_disk (v : Byte) : (push v s).disk = s.disk := by simp [push_eq]
@[simp] theorem push_draws (v : Byte) : (push v s).draws = s.draws := by simp [push_eq]

/-- A push leaves every RAM byte but its stack slot alone. -/
theorem push_byteAt_other {v : Byte} {b : Bank} {n : Nat} (h : n ≠ 256 + s.sp.toNat) :
    Memory.read ((push v s).ram b) n = Memory.read (s.ram b) n := by
  rw [push_eq, State.ram_setSp, State.ram_setRam]
  split
  · exact Memory.read_write_other h _
  · rfl

/-- A push leaves every RAM byte alone but its stack slot in the bank it selects. -/
theorem push_byteAt_elsewhere {v : Byte} {b : Bank} {n : Nat} (h : (b, n) ≠ (s.bankOf (stackAddr s.sp) true, 256 + s.sp.toNat)) :
    Memory.read ((push v s).ram b) n = Memory.read (s.ram b) n := by
  by_cases hn : n = 256 + s.sp.toNat
  · subst hn
    rw [push_eq, State.ram_setSp, State.ram_setRam, if_neg (fun hb => h (by rw [hb]))]
  · exact push_byteAt_other s hn

@[simp] theorem bankOf_push (v : Byte) (q : Addr) (w : Bool) : (push v s).bankOf q w = s.bankOf q w := by
  simp [State.bankOf]

/-! ## Effective addresses and operands -/


/-- Working out an effective address changes nothing: pointers are in the zero page, which is RAM. -/
@[simp] theorem resolve_st (m : MemMode) : (resolve m s).st = s := by cases m <;> simp [resolve]

@[simp] theorem load_a (m : Src) : (load m s).st.a = s.a := by cases m <;> simp [load]
@[simp] theorem load_x (m : Src) : (load m s).st.x = s.x := by cases m <;> simp [load]
@[simp] theorem load_y (m : Src) : (load m s).st.y = s.y := by cases m <;> simp [load]
@[simp] theorem load_sp (m : Src) : (load m s).st.sp = s.sp := by cases m <;> simp [load]
@[simp] theorem load_pc (m : Src) : (load m s).st.pc = s.pc := by cases m <;> simp [load]
@[simp] theorem load_p (m : Src) : (load m s).st.p = s.p := by cases m <;> simp [load]
@[simp] theorem load_totalCycle (m : Src) : (load m s).st.totalCycle = s.totalCycle := by cases m <;> simp [load]
@[simp] theorem load_cycle (m : Src) : (load m s).st.cycle = s.cycle := by cases m <;> simp [load]
@[simp] theorem load_instructionRun (m : Src) : (load m s).st.instructionRun = s.instructionRun := by cases m <;> simp [load]
@[simp] theorem load_irqLine (m : Src) : (load m s).st.irqLine = s.irqLine := by cases m <;> simp [load]
@[simp] theorem load_nmiPending (m : Src) : (load m s).st.nmiPending = s.nmiPending := by cases m <;> simp [load]
@[simp] theorem load_speed (m : Src) : (load m s).st.speed = s.speed := by cases m <;> simp [load]
@[simp] theorem load_trapTable (m : Src) : (load m s).st.trapTable = s.trapTable := by cases m <;> simp [load]
@[simp] theorem load_faultLog (m : Src) : (load m s).st.faultLog = s.faultLog := by cases m <;> simp [load]
@[simp] theorem load_timers (m : Src) : (load m s).st.timers = s.timers := by cases m <;> simp [load]
@[simp] theorem load_cfg (m : Src) : (load m s).st.cfg = s.cfg := by cases m <;> simp [load]
@[simp] theorem load_ramMain (m : Src) : (load m s).st.ramMain = s.ramMain := by cases m <;> simp [load]
@[simp] theorem load_ramAux (m : Src) : (load m s).st.ramAux = s.ramAux := by cases m <;> simp [load]

/-- Loading a memory operand: its effective address, then one read of the bus. -/
theorem load_mem (m : MemMode) :
    load (.mem m) s = ⟨(busRead (resolve m s).addr s).1, (resolve m s).crossed, (busRead (resolve m s).addr s).2⟩ := by
  simp [load]

/-- Loading an immediate operand changes nothing. -/
@[simp] theorem load_imm (n : Byte) : load (.imm n) s = ⟨n, false, s⟩ := rfl

end Sys2Proof.Machine
end

