-- ==== Sys2Proof/Laws/Devices.lean ====
section
/-! SUPPORT. Each device operation keeps the part of the invariant that is about its device: the audio mixer, the drives
and their media, the sequencer, the timers. -/

namespace Sys2Proof.Machine

/-! ## Audio -/

variable {c : Params}

/-- What `Params.accepted` says. -/
theorem Params.accepted_iff : c.accepted = true ↔
    0 < c.sampleBufferOffset ∧ c.sampleBufferOffset < c.ringN ∧ 0 < c.bitTiming ∧ c.bitTiming % 4 = 0 := by
  simp [Params.accepted, and_assoc]

theorem ringN_pos (h : c.accepted = true) : 0 < c.ringN := by
  have := Params.accepted_iff.1 h; omega

theorem contributionOk_zero : contributionOk 0 := ⟨by decide, by decide⟩

/-- The speaker value is a contribution. -/
theorem speaker_contributionOk {v : Int} (h : v = 256 ∨ v = -256) : contributionOk v := by
  obtain rfl | rfl := h <;> exact ⟨by decide, by decide⟩

/-- Replacing a ring entry by a contribution keeps every entry one. -/
theorem ring_set_ok {ring : List Int} (h : ∀ v ∈ ring, contributionOk v) {v : Int} (hv : contributionOk v) (i : Nat) :
    ∀ w ∈ ring.set i v, contributionOk w := by
  intro w hw
  obtain hw | rfl := List.mem_or_eq_of_mem_set hw
  · exact h w hw
  · exact hv

/-- A ring entry read is a contribution. -/
theorem ring_getD_ok {ring : List Int} (h : ∀ v ∈ ring, contributionOk v) (i : Nat) : contributionOk (ring.getD i 0) := by
  rw [List.getD_eq_getElem?_getD]
  cases hi : ring[i]? with
  | none => exact contributionOk_zero
  | some v => exact h v (List.mem_of_getElem? hi)

theorem Audio.push_ok {au : Audio} (hc : c.accepted = true) (h : audioOk c au) : audioOk c (au.push c) := by
  obtain ⟨h1, h2, h3, h4, h5, h6⟩ := h
  have hp := ringN_pos hc
  refine ⟨by simp [Audio.push, h1], Nat.mod_lt _ hp, ?_, h4, ring_set_ok h5 (speaker_contributionOk h4) _, h6⟩
  simp only [Audio.push]
  split
  · exact Nat.mod_lt _ hp
  · exact h3

theorem Audio.pushes_ok (hc : c.accepted = true) (n : Nat) {au : Audio} (h : audioOk c au) : audioOk c (au.pushes c n) := by
  induction n generalizing au with
  | zero => exact h
  | succ n ih => exact ih (Audio.push_ok hc h)

/-- A click keeps the mixer's invariant. -/
theorem Audio.click_ok {au : Audio} (hc : c.accepted = true) (cyc : Nat) (h : audioOk c au) : audioOk c (au.click c cyc) := by
  have neg : ∀ {v : Int}, v = 256 ∨ v = -256 → -v = 256 ∨ -v = -256 := by intro v h; omega
  have hp := ringN_pos hc
  unfold Audio.click
  split
  · exact ⟨h.1, h.2.1, h.2.2.1, neg h.2.2.2.1, h.2.2.2.2⟩
  · split
    · exact ⟨h.1, Nat.mod_lt _ hp, h.2.2.1, neg h.2.2.2.1, h.2.2.2.2⟩
    · have k := Audio.pushes_ok hc (samplePos c cyc - au.currentSample) h
      exact ⟨k.1, k.2.1, k.2.2.1, neg h.2.2.2.1, k.2.2.2.2⟩

theorem Audio.take_ok {au : Audio} (hc : c.accepted = true) (h : audioOk c au) : audioOk c (au.take c).2 := by
  obtain ⟨h1, h2, h3, h4, h5, h6⟩ := h
  unfold Audio.take
  split
  · exact ⟨by simp [h1], h2, Nat.mod_lt _ (ringN_pos hc), h4, ring_set_ok h5 contributionOk_zero _, ring_getD_ok h5 _⟩
  · exact ⟨h1, h2, h3, h4, h5, h6⟩

theorem Audio.secondary_ok {au : Audio} (h : audioOk c au) : audioOk c (au.secondary c).2 := by
  unfold Audio.secondary
  split <;> exact h

/-- A drain keeps the mixer's invariant. -/
theorem Audio.drain_ok (hc : c.accepted = true) (k : Nat) {au : Audio} (h : audioOk c au) : audioOk c (au.drain c k).2 := by
  induction k generalizing au with
  | zero => exact h
  | succ k ih => exact ih (Audio.secondary_ok (Audio.take_ok hc h))

/-- A sync keeps the mixer's invariant. -/
theorem Audio.sync_ok {au : Audio} (cyc : Nat) (h : audioOk c au) : audioOk c (au.sync c cyc) := by
  obtain ⟨h1, h2, h3, h4, h5, h6⟩ := h
  refine ⟨by simp [Audio.sync, h1], h3, h3, h4, ?_, h6⟩
  intro v hv
  simp only [Audio.sync, List.mem_map] at hv
  obtain ⟨_, _, rfl⟩ := hv
  exact contributionOk_zero

/-! ## Tracks, media and drives -/

/-- What a track of an accepted medium is. -/
theorem Track.accepted_iff {t : Track} : t.accepted = true ↔
    t.bitCount ≤ Config.maxTrackBits ∧ t.bits.wf = true ∧ Memory.below 6656 t.bits = true := by
  simp [Track.accepted, and_assoc]

/-- What an accepted medium is. -/
theorem Medium.accepted_iff {m : Medium} : m.accepted = true ↔
    m.trackId.length = 160 ∧ m.tracks.length = 35 ∧ ∀ t ∈ m.tracks, t.accepted = true := by
  simp [Medium.accepted, and_assoc]

/-- Changing tracks of an accepted medium to accepted ones leaves it accepted. -/
theorem Medium.updateAt_accepted {m : Medium} (h : m.accepted = true) (q : Nat) {f : Track → Track}
    (hf : ∀ t, t.accepted = true → (f t).accepted = true) : (m.updateAt q f).accepted = true := by
  obtain ⟨h1, h2, h3⟩ := Medium.accepted_iff.1 h
  unfold Medium.updateAt
  split
  · exact h
  · refine Medium.accepted_iff.2 ⟨h1, by simp [h2], fun t ht => ?_⟩
    obtain ⟨i, hi, rfl⟩ := List.mem_iff_getElem.1 ht
    rw [List.getElem_modify]
    have k := h3 _ (List.getElem_mem (by simpa using hi))
    split
    · exact hf _ k
    · exact k

/-- The track at a quarter-track of an accepted medium is accepted. -/
theorem Medium.trackAt_accepted {m : Medium} (h : m.accepted = true) {q : Nat} {t : Track} (ht : m.trackAt q = some t) :
    t.accepted = true := by
  unfold Medium.trackAt at ht
  split at ht
  · exact absurd ht nofun
  · exact (Medium.accepted_iff.1 h).2.2 t (List.mem_of_getElem? ht)

/-- The loaded bytes of an accepted medium are canonical and within 6 656 bytes. -/
theorem Medium.bitsAt_ok {m : Medium} (h : m.accepted = true) (q : Nat) :
    (m.bitsAt q).wf = true ∧ Memory.below 6656 (m.bitsAt q) = true := by
  unfold Medium.bitsAt
  split
  · exact ⟨rfl, rfl⟩
  · rename_i t ht
    exact (Track.accepted_iff.1 (Medium.trackAt_accepted h ht)).2

/-- The track under the head of an accepted medium is at most 53 248 bits long. -/
theorem Medium.bitCountAt_le {m : Medium} (h : m.accepted = true) (q : Nat) : m.bitCountAt q ≤ 53248 := by
  unfold Medium.bitCountAt
  split
  · omega
  · rename_i t ht
    exact (Track.accepted_iff.1 (Medium.trackAt_accepted h ht)).1

/-- Writing a bit within 53 248 keeps track data canonical and within 6 656 bytes. -/
theorem setTrackBit_ok {data : Memory} (hw : data.wf = true) (hb : Memory.below 6656 data = true) {i : Nat} (hi : i < 53248)
    (b : Bool) : (setTrackBit data i b).wf = true ∧ Memory.below 6656 (setTrackBit data i b) = true :=
  ⟨Memory.wf_write hw, Memory.below_write (by omega) hb⟩

/-- The track under the head of a good drive is at most 53 248 bits long. -/
theorem Drive.bitCount_le {d : Drive} (h : driveOk d) : d.bitCount ≤ 53248 := by
  unfold Drive.bitCount
  cases hm : d.medium with
  | none => exact Nat.zero_le _
  | some m => exact Medium.bitCountAt_le (h.2.2.2.1 m hm) _

/-- `bit_position` is in [0, `bit_count`) (10_state.md R53). -/
theorem Drive.bitPosition_lt {d : Drive} (h : 0 < d.bitCount) : d.bitPosition < d.bitCount := Nat.mod_lt _ h

/-- It is the kept position itself wherever that lies on the track. -/
theorem Drive.bitPosition_eq {d : Drive} (h : d.headPosition < d.bitCount) : d.bitPosition = d.headPosition :=
  Nat.mod_eq_of_lt h

theorem Drive.writeBit_ok {d : Drive} (h : driveOk d) (b : Bool) : driveOk (d.writeBit b) := by
  unfold Drive.writeBit
  split
  · rename_i hb
    have hi := Nat.lt_of_lt_of_le (Drive.bitPosition_lt hb.1) (Drive.bitCount_le h)
    obtain ⟨h1, h2, h3, h4, h5⟩ := h
    refine ⟨h1, (setTrackBit_ok h2 h3 hi b).1, (setTrackBit_ok h2 h3 hi b).2, fun m hm => ?_, h5⟩
    simp only [Option.map_eq_some_iff] at hm
    obtain ⟨m', hm', rfl⟩ := hm
    exact Medium.updateAt_accepted (h4 m' hm') _ (fun t ht => ht)
  · exact h

theorem Drive.advance_ok {d : Drive} (h : driveOk d) : driveOk d.advance := by
  unfold Drive.advance
  split
  · rename_i hb
    exact ⟨h.1, h.2.1, h.2.2.1, h.2.2.2.1, Nat.lt_of_lt_of_le (Nat.mod_lt _ hb) (Drive.bitCount_le h)⟩
  · exact h

theorem Drive.storeTrack_ok {d : Drive} (h : driveOk d) : driveOk d.storeTrack := by
  obtain ⟨h1, h2, h3, h4, h5⟩ := h
  refine ⟨h1, h2, h3, fun m hm => ?_, h5⟩
  simp only [Drive.storeTrack, Option.map_eq_some_iff] at hm
  obtain ⟨m', hm', rfl⟩ := hm
  refine Medium.updateAt_accepted (h4 m' hm') _ (fun t ht => ?_)
  split
  · exact Track.accepted_iff.2 ⟨(Track.accepted_iff.1 ht).1, h2, h3⟩
  · exact ht

theorem Drive.moveHead_ok {d : Drive} (h : driveOk d) {q : Nat} (hq : q ≤ 140) : driveOk (d.moveHead q) := by
  unfold Drive.moveHead
  split
  · exact ⟨hq, h.2⟩
  · rename_i m hm
    have ha := h.2.2.2.1 m hm
    split
    · exact ⟨hq, h.2⟩
    · refine ⟨hq, (Medium.bitsAt_ok ha q).1, (Medium.bitsAt_ok ha q).2, (Drive.storeTrack_ok h).2.2.2.1, ?_⟩
      show (if m.bitCountAt q = 0 then 0 else d.bitPosition % m.bitCountAt q) < 53248
      have := Medium.bitCountAt_le ha q
      split
      · omega
      · exact Nat.lt_of_lt_of_le (Nat.mod_lt _ (by omega)) this

/-- The default rule keeps the head within [0, 140]. -/
theorem defaultStep_le (stepper : Byte) {q : Nat} (hq : q ≤ 140) : defaultStep stepper q ≤ 140 := by
  unfold defaultStep
  split
  · exact hq
  · simp only [Config.qtrackMax]
    split
    · omega
    · split <;> omega

theorem stepHead_le (stepper : Byte) (n : Nat) {q : Nat} (hq : q ≤ 140) : stepHead c stepper n q ≤ 140 := by
  unfold stepHead
  split
  · exact defaultStep_le stepper hq
  · exact Nat.min_le_right _ _

theorem Drive.setPhase_ok {d : Drive} (h : driveOk d) (n : Fin 4) (v : Bool) : driveOk (d.setPhase c n v) := by
  unfold Drive.setPhase
  split
  · exact h
  · exact (fun s => Drive.moveHead_ok (d := { d with stepper := s }) ⟨h.1, h.2⟩ (stepHead_le s n.val h.1)) _

theorem Drive.create_ok : driveOk Drive.create := ⟨by decide, rfl, rfl, fun _ h => absurd h nofun, by decide⟩

/-! ## What head and bit operations keep -/

@[simp] theorem Drive.advance_motor (d : Drive) : d.advance.motor = d.motor := by unfold Drive.advance; split <;> rfl
@[simp] theorem Drive.writeBit_motor (d : Drive) (b : Bool) : (d.writeBit b).motor = d.motor := by
  unfold Drive.writeBit; split <;> rfl
@[simp] theorem Drive.moveHead_motor (d : Drive) (q : Nat) : (d.moveHead q).motor = d.motor := by
  unfold Drive.moveHead; split <;> (try split) <;> rfl
@[simp] theorem Drive.moveHead_stepper (d : Drive) (q : Nat) : (d.moveHead q).stepper = d.stepper := by
  unfold Drive.moveHead; split <;> (try split) <;> rfl
@[simp] theorem Drive.moveHead_qtrack (d : Drive) (q : Nat) : (d.moveHead q).qtrack = q := by
  unfold Drive.moveHead; split <;> (try split) <;> rfl
@[simp] theorem Drive.setPhase_motor (d : Drive) (n : Fin 4) (v : Bool) : (d.setPhase c n v).motor = d.motor := by
  unfold Drive.setPhase; split <;> simp

/-! ## The controller -/

/-- Replacing the selected drive by one as good, with its motor, keeps the controller's invariant. -/
theorem setDrive_ok {dk : Disk} (h : diskOk c dk) {d : Drive} (e : Fin 2) (hd : driveOk d) (hm : d.motor = (dk.drive e).motor) :
    diskOk c (dk.setDrive e d) := by
  obtain ⟨h1, h2, h3, h4, h5⟩ := h
  unfold Disk.setDrive
  unfold Disk.drive at hm
  split
  · rename_i hs
    rw [if_pos hs] at hm
    exact ⟨h1, hd, h3, hm.trans h4, h5⟩
  · rename_i hs
    rw [if_neg hs] at hm
    exact ⟨h1, h2, hd, h4, hm.trans h5⟩

/-- The drive a number names is a good one. -/
theorem drive_ok {dk : Disk} (h : diskOk c dk) (e : Fin 2) : driveOk (dk.drive e) := by
  unfold Disk.drive
  split
  · exact h.2.1
  · exact h.2.2.1

theorem syncMotors_ok {dk : Disk} (h1 : dk.clock < c.bitTiming) (h2 : driveOk dk.drive0) (h3 : driveOk dk.drive1) :
    diskOk c dk.syncMotors :=
  ⟨h1, h2, h3, rfl, rfl⟩

/-- Every offset of the I/O range keeps the controller's invariant. -/
theorem Disk.action_ok {dk : Disk} (h : diskOk c dk) (off : BitVec 4) : diskOk c (dk.action c off) := by
  have ph : ∀ n v, diskOk c (dk.setDrive dk.selected (dk.sel.setPhase c n v)) := fun n v =>
    setDrive_ok h _ (Drive.setPhase_ok (drive_ok h _) n v) (Drive.setPhase_motor _ _ _)
  have h0 := h.1
  have h2 := h.2.1
  have h3 := h.2.2.1
  unfold Disk.action
  split <;> first
    | exact ph _ _
    | exact syncMotors_ok h0 h2 h3
    | exact ⟨h.1, h.2.1, h.2.2.1, h.2.2.2.1, h.2.2.2.2⟩

theorem Disk.access_ok {dk : Disk} (h : diskOk c dk) (off : BitVec 4) (w : Option Byte) : diskOk c (dk.access c off w) := by
  have k := Disk.action_ok h off
  unfold Disk.access
  split <;> exact ⟨k.1, k.2.1, k.2.2.1, k.2.2.2.1, k.2.2.2.2⟩

/-- A sequencer step keeps the controller's invariant. -/
theorem Disk.lssStep_ok {dk : Disk} (hc : c.accepted = true) (h : diskOk c dk) (draws : Nat) :
    diskOk c (dk.lssStep c draws).1 := by
  have key : diskOk c (dk.cellStep c draws).1 := by
    obtain ⟨-, -, hb, hb4⟩ := Params.accepted_iff.1 hc
    have hcl := h.1
    unfold Disk.cellStep
    split
    · split
      · have k := setDrive_ok h dk.selected (Drive.advance_ok (Drive.writeBit_ok (drive_ok h dk.selected) (dk.dataRegister.getLsbD 7)))
          (by rw [Drive.advance_motor, Drive.writeBit_motor])
        exact ⟨(by show dk.clock + 4 - c.bitTiming < c.bitTiming; omega), k.2.1, k.2.2.1, k.2.2.2.1, k.2.2.2.2⟩
      · have k := setDrive_ok h dk.selected (Drive.advance_ok (drive_ok h dk.selected)) (by rw [Drive.advance_motor])
        exact ⟨(by show dk.clock + 4 - c.bitTiming < c.bitTiming; omega), k.2.1, k.2.2.1, k.2.2.2.1, k.2.2.2.2⟩
    · exact ⟨(by show dk.clock + 4 < c.bitTiming; omega), h.2.1, h.2.2.1, h.2.2.2.1, h.2.2.2.2⟩
  exact ⟨key.1, key.2.1, key.2.2.1, key.2.2.2.1, key.2.2.2.2⟩

theorem Disk.lssSteps_ok (hc : c.accepted = true) (n : Nat) {dk : Disk} (h : diskOk c dk) (draws : Nat) :
    diskOk c (Disk.lssSteps c n dk draws).1 := by
  induction n generalizing dk draws with
  | zero => exact h
  | succ n ih => exact ih (Disk.lssStep_ok hc h draws) _

/-- Clocking the sequencer keeps the controller's invariant. -/
theorem Disk.run_ok {dk : Disk} (hc : c.accepted = true) (k : Nat) (h : diskOk c dk) (draws : Nat) :
    diskOk c (dk.run c k draws).1 := by
  unfold Disk.run
  split
  · exact Disk.lssSteps_ok hc _ h draws
  · exact h

/-- An accepted change of media keeps the controller's invariant. -/
theorem Disk.media_ok {dk : Disk} (h : diskOk c dk) {act : MediaAction} (ha : act.accepted = true) : diskOk c (dk.media act) := by
  unfold Disk.media
  split
  · rename_i e
    have k := drive_ok h e
    exact setDrive_ok h e ⟨k.1, rfl, rfl, fun _ h => absurd h nofun, k.2.2.2.2⟩ rfl
  · rename_i e m wp
    have k := drive_ok h e
    refine setDrive_ok h e ⟨k.1, (Medium.bitsAt_ok ha _).1, (Medium.bitsAt_ok ha _).2, fun m' hm => ?_, k.2.2.2.2⟩ rfl
    obtain rfl := Option.some.inj hm
    exact ha
  · rename_i e m wp p
    obtain ⟨ha, hp⟩ : m.accepted = true ∧ p.accepted = true := by simpa [MediaAction.accepted] using ha
    have hd : driveOk ((dk.drive e).mount m wp (.reset p)) := by
      refine ⟨of_decide_eq_true hp, (Medium.bitsAt_ok ha _).1, (Medium.bitsAt_ok ha _).2, fun m' hm => ?_,
        p.bitPosition.isLt⟩
      obtain rfl := Option.some.inj hm
      exact ha
    unfold Disk.setDrive
    split
    · exact syncMotors_ok h.1 hd h.2.2.1
    · exact syncMotors_ok h.1 h.2.1 hd

theorem Disk.create_ok (hc : c.accepted = true) : diskOk c Disk.create :=
  ⟨(Params.accepted_iff.1 hc).2.2.1, Drive.create_ok, Drive.create_ok, rfl, rfl⟩

theorem Audio.create_ok (hc : c.accepted = true) : audioOk c (Audio.create c) := by
  have hp := ringN_pos hc
  refine ⟨by simp [Audio.create], hp, hp, Or.inr rfl, fun v hv => ?_, contributionOk_zero⟩
  rw [List.eq_of_mem_replicate hv]
  exact contributionOk_zero

/-! ## Rounded quotients -/

/-- A quotient that is an integer stays itself. -/
theorem roundQuotient_exact {n d : Nat} (h : n % d = 0) (up : Bool) : roundQuotient n d up = n / d := by
  simp [roundQuotient, h]

/-- A rounded quotient differs from the exact one by less than one. -/
theorem roundQuotient_near {d : Nat} (hd : 0 < d) (n : Nat) (up : Bool) :
    n < d * roundQuotient n d up + d ∧ d * roundQuotient n d up < n + d := by
  have hlt := Nat.mod_lt n hd
  have he := Nat.div_add_mod n d
  unfold roundQuotient
  split
  · constructor <;> simp only [Nat.add_zero] <;> omega
  · cases up <;> simp only [Bool.toNat_false, Bool.toNat_true, Nat.mul_add, Nat.mul_one, Nat.mul_zero] <;> omega

/-- At speed 1.0 the timers fall by exactly the cycles charged. -/
@[simp] theorem speedCycles_unit (k : Nat) : speedCycles .unit k = k := by
  simp [speedCycles, Speed.unit, roundQuotient]

/-- A monotone bound: the decrement at any speed is at least the cycles charged. -/
theorem le_speedCycles (sp : Speed) (k : Nat) : k ≤ speedCycles sp k := Nat.le_add_right _ _

/-! ## Clocking the devices -/

theorem ClockFrame.refl (s : State) : ClockFrame s s :=
  ⟨rfl, rfl, ⟨by simp, by simp⟩, ⟨rfl, rfl⟩, rfl, rfl, rfl, rfl, rfl, rfl, rfl, rfl⟩

theorem ClockFrame.trans {s t u : State} (h : ClockFrame s t) (k : ClockFrame t u) : ClockFrame s u where
  regs := k.regs.trans h.regs
  pc := k.pc.trans h.pc
  cost := ⟨by simp [k.cost.cycle, h.cost.cycle], by simp [k.cost.totalCycle, h.cost.totalCycle]⟩
  ram := ⟨k.ram.main.trans h.ram.main, k.ram.aux.trans h.ram.aux⟩
  speed := k.speed.trans h.speed
  trapTable := k.trapTable.trans h.trapTable
  faultLog := k.faultLog.trans h.faultLog
  cfg := k.cfg.trans h.cfg
  kbdLatch := k.kbdLatch.trans h.kbdLatch
  audio := k.audio.trans h.audio
  sw := by rw [k.sw, h.sw]
  video := by rw [k.video, h.video]

/-- A timer callback leaves what clocking leaves, the disk controller and the timers. -/
theorem runCallback_clock (cb : TimerCallback) (s : State) :
    ClockFrame s (runCallback cb s).2 ∧ (runCallback cb s).2.disk = s.disk ∧ (runCallback cb s).2.timers = s.timers := by
  cases cb with
  | host id => exact ⟨⟨rfl, rfl, ⟨by simp [runCallback, hostTimerCallback], by simp [runCallback, hostTimerCallback]⟩,
      ⟨rfl, rfl⟩, rfl, rfl, rfl, rfl, rfl, rfl, rfl, rfl⟩, rfl, rfl⟩
  | vbl =>
    simp only [runCallback, vblCallback]
    split <;> exact ⟨⟨rfl, rfl, ⟨by simp, by simp⟩, ⟨rfl, rfl⟩, rfl, rfl, rfl, rfl, rfl, rfl, rfl, rfl⟩, rfl, rfl⟩

/-- Stepping one timer leaves what clocking leaves, the controller, and the timer's callback and name. -/
theorem stepTimer_clock (k : Nat) (t : Timer) (s : State) :
    ClockFrame s (stepTimer k t s).2 ∧ (stepTimer k t s).2.disk = s.disk
      ∧ ((stepTimer k t s).1.callback, (stepTimer k t s).1.name) = (t.callback, t.name) := by
  unfold stepTimer
  split
  · exact ⟨.refl s, rfl, rfl⟩
  · split
    · exact ⟨(runCallback_clock t.callback s).1, (runCallback_clock t.callback s).2.1, rfl⟩
    · exact ⟨.refl s, rfl, rfl⟩

/-- Stepping the timers of a list. -/
theorem stepTimers_clock (k : Nat) (l : List Timer) (s : State) :
    ClockFrame s (stepTimers k l s).2 ∧ (stepTimers k l s).2.disk = s.disk
      ∧ (stepTimers k l s).1.map (fun e => (e.callback, e.name)) = l.map (fun e => (e.callback, e.name)) := by
  induction l generalizing s with
  | nil => exact ⟨.refl s, rfl, rfl⟩
  | cons t l ih =>
    obtain ⟨h1, h2, h3⟩ := stepTimer_clock k t s
    obtain ⟨k1, k2, k3⟩ := ih (stepTimer k t s).2
    exact ⟨h1.trans k1, k2.trans h2, congrArg₂ List.cons h3 k3⟩

/-- Clocking the devices by a cost. -/
theorem deviceStep_clock (k : Nat) (s : State) :
    ClockFrame s (deviceStep k s) ∧ (deviceStep k s).disk = (s.disk.run s.cfg k s.draws).1
      ∧ (deviceStep k s).timers.map (fun e => (e.callback, e.name)) = s.timers.map (fun e => (e.callback, e.name)) := by
  obtain ⟨⟨regs, pc, ⟨c1, c2⟩, ⟨r1, r2⟩, sp, tt, fl, cfg, kb, au, sw, vi⟩, hd, ht⟩ := stepTimers_clock k s.timers (diskStep k s)
  exact ⟨⟨regs, pc, ⟨c1, c2⟩, ⟨r1, r2⟩, sp, tt, fl, cfg, kb, au, sw, vi⟩, hd, ht⟩

/-! ## The run loop -/

/-- An answer of the loop stays the same when it is followed further. -/
theorem runLoop_mono {n : Nat} {t : State} (f g : Nat) {s : State} (h : runLoop n f s = .next t) (hfg : f ≤ g) :
    runLoop n g s = .next t := by
  induction f generalizing s g with
  | zero =>
    simp only [runLoop] at h
    split at h
    · exact absurd h nofun
    · rename_i hr
      cases g with
      | zero => simpa [runLoop, hr] using h
      | succ g => simpa [runLoop, hr] using h
  | succ f ih =>
    obtain ⟨g, rfl⟩ : ∃ g', g = g' + 1 := ⟨g - 1, by omega⟩
    simp only [runLoop] at h ⊢
    split at h
    · rename_i hr
      rw [if_pos hr]
      cases hs : step s with
      | next u => rw [hs] at h; exact ih g h (by omega)
      | fault e => rw [hs] at h; exact absurd h nofun
      | refused e => rw [hs] at h; exact absurd h nofun
    · rename_i hr
      rw [if_neg hr]
      exact h

/-- Where the loop answers, its test fails. -/
theorem runLoop_ends {n : Nat} {t : State} (f : Nat) {s : State} (h : runLoop n f s = .next t) : runs n t = false := by
  induction f generalizing s with
  | zero =>
    simp only [runLoop] at h
    split at h
    · exact absurd h nofun
    · rename_i hr
      cases h
      exact Bool.eq_false_iff.2 hr
  | succ f ih =>
    simp only [runLoop] at h
    split at h
    · cases hs : step s with
      | next u => rw [hs] at h; exact ih h
      | fault e => rw [hs] at h; exact absurd h nofun
      | refused e => rw [hs] at h; exact absurd h nofun
    · rename_i hr
      cases h
      exact Bool.eq_false_iff.2 hr

/-! ## The colour tables -/

@[simp] theorem paletteClut_length (mono : Bool) (i : Nat) : (paletteClut mono i).length = 16 := by simp [paletteClut]
@[simp] theorem paletteClutLow_length (mono : Bool) (i : Nat) : (paletteClutLow mono i).length = 16 := by simp [paletteClutLow]

/-! ## The trap table -/

/-- Registering keeps the indices rising. -/
theorem insertTrap_sorted (t : Byte) (handler : Nat) {l : List (Byte × Nat)} (h : l.Pairwise fun e f => e.1.toNat < f.1.toNat) :
    (insertTrap t handler l).Pairwise fun e f => e.1.toNat < f.1.toNat := by
  induction l with
  | nil => simp [insertTrap]
  | cons e rest ih =>
    obtain ⟨u, g⟩ := e
    obtain ⟨h1, h2⟩ := List.pairwise_cons.1 h
    unfold insertTrap
    split
    · rename_i hlt
      refine List.pairwise_cons.2 ⟨fun f hf => ?_, h⟩
      obtain rfl | hf := List.mem_cons.1 hf
      · exact hlt
      · exact Nat.lt_trans hlt (h1 f hf)
    · split
      · rename_i _ heq
        subst heq
        exact List.pairwise_cons.2 ⟨h1, h2⟩
      · rename_i hlt hne
        refine List.pairwise_cons.2 ⟨fun f hf => ?_, ih h2⟩
        have hu : u.toNat < t.toNat := by
          have : t.toNat ≠ u.toNat := fun h => hne (BitVec.eq_of_toNat_eq h)
          omega
        have : f = (t, handler) ∨ f ∈ rest := by
          clear ih h h1 h2
          induction rest with
          | nil => simpa [insertTrap] using hf
          | cons e rest ih =>
            obtain ⟨w, k⟩ := e
            unfold insertTrap at hf
            split at hf
            · simpa using hf
            · split at hf
              · obtain rfl | hf := List.mem_cons.1 hf
                · exact Or.inl rfl
                · exact Or.inr (List.mem_cons_of_mem _ hf)
              · obtain rfl | hf := List.mem_cons.1 hf
                · exact Or.inr (List.mem_cons_self ..)
                · obtain h | h := ih hf
                  · exact Or.inl h
                  · exact Or.inr (List.mem_cons_of_mem _ h)
        obtain rfl | hf := this
        · exact hu
        · exact h1 f hf

end Sys2Proof.Machine
end

