-- ==== Sys2Proof/Laws/Exec.lean ====
section
/-! SUPPORT. The shared instruction forms, once for all instructions: what a reading, storing, modifying, branching or
register-only form does and leaves unchanged, in the frames of Safety.lean. -/

namespace Sys2Proof.Machine

variable (s : State)

/-! ## Frames of the building blocks -/

/-- Registers, PC, counters and draws apart, `charge`, `retire` and the register setters change nothing. -/
theorem ControlKept.refl : ControlKept s s := ⟨rfl, rfl, rfl, rfl, rfl, rfl, rfl, rfl⟩
theorem RamKept.refl : RamKept s s := ⟨rfl, rfl⟩
theorem DevicesAs.refl : DevicesAs s s := ⟨rfl, rfl, rfl, rfl, rfl, rfl⟩

variable {s} in
theorem ControlKept.trans {t u : State} (h : ControlKept s t) (k : ControlKept t u) : ControlKept s u :=
  ⟨k.1.trans h.1, k.2.trans h.2, k.3.trans h.3, k.4.trans h.4, k.5.trans h.5, k.6.trans h.6, k.7.trans h.7, k.8.trans h.8⟩

variable {s} in
theorem RamKept.trans {t u : State} (h : RamKept s t) (k : RamKept t u) : RamKept s u :=
  ⟨k.1.trans h.1, k.2.trans h.2⟩

variable {s} in
theorem DevicesAs.trans {t u : State} (h : DevicesAs s t) (k : DevicesAs t u) : DevicesAs s u :=
  ⟨k.1.trans h.1, k.2.trans h.2, k.3.trans h.3, k.4.trans h.4, k.5.trans h.5, k.6.trans h.6⟩

/-- A read keeps the control state. -/
theorem busRead_control (q : Addr) : ControlKept s (busRead q s).2 := by constructor <;> simp

/-- A write keeps the control state. -/
theorem busWrite_control (q : Addr) (v : Byte) : ControlKept s (busWrite q v s) := by constructor <;> simp

/-- A read keeps RAM. -/
theorem busRead_ramKept (q : Addr) : RamKept s (busRead q s).2 := by constructor <;> simp

/-- Loading an operand keeps the control state. -/
theorem load_control (m : Src) : ControlKept s (load m s).st := by constructor <;> simp

/-- Loading an operand keeps RAM. -/
theorem load_ramKept (m : Src) : RamKept s (load m s).st := by constructor <;> simp

/-- The bank an access selects is the one RAM state and switches give it. -/
theorem bankOf_congr {s t : State} (hc : t.cfg = s.cfg) (hs : t.sw = s.sw) (q : Addr) (w : Bool) : t.bankOf q w = s.bankOf q w := by
  simp [State.bankOf, hc, hs]

variable {s} in
/-- A RAM byte of states with the same RAM. -/
theorem RamKept.ram {t : State} (h : RamKept s t) (b : Bank) : t.ram b = s.ram b := by
  cases b
  · exact h.main
  · exact h.aux

/-- A bus write stores its byte and nothing else. -/
theorem busWrite_stored (q : Addr) (v : Byte) : Stored q v s (busWrite q v s) where
  here h hw := by
    rw [State.byteAt, busWrite_ramOf, if_pos ⟨h, rfl⟩]
    exact Memory.read_write_same hw
  elsewhere b n h := by
    simpa [State.byteAt] using busWrite_byteAt_other s h
  otherBank b h := by
    rw [busWrite_ramOf, if_neg (fun hc => h hc.2.symm)]
  noRam h := by
    obtain ⟨hl, _⟩ | ⟨_, he⟩ | ⟨_, he⟩ := busWrite_cases s q v
    · omega
    · rw [he]
      exact ⟨rfl, rfl⟩
    · rw [he]
      exact ⟨rfl, rfl⟩

variable {s} in
/-- What a store did is not undone by what keeps RAM. -/
theorem Stored.mono {q : Addr} {v : Byte} {t u : State} (h : Stored q v s t) (k : RamKept t u) : Stored q v s u where
  here a b := by
    rw [State.byteAt, k.ram]
    exact h.here a b
  elsewhere b n hn := by
    rw [State.byteAt, k.ram]
    exact h.elsewhere b n hn
  otherBank b hb := by
    rw [k.ram]
    exact h.otherBank b hb
  noRam a := (h.noRam a).trans k

/-- A read and then a write of one address store the byte and nothing else. -/
theorem modify_stored (q : Addr) (v : Byte) : Stored q v s (busWrite q v (busRead q s).2) := by
  by_cases h : q.toNat < 0xC000 ∨ 0xC100 ≤ q.toNat
  · rw [busRead_quiet s h]
    exact busWrite_stored s q v
  · have hq : 0xC000 ≤ q.toNat := by omega
    have hk := (busWrite_stored (busRead q s).2 q v).noRam hq
    have hs := (busRead_ramKept s q).trans hk
    exact
      { here := fun hl _ => absurd hl (by omega)
        elsewhere := fun b n _ => by rw [State.byteAt, hs.ram]; rfl
        otherBank := fun b _ => hs.ram b
        noRam := fun _ => hs }

/-! ## Page crossing -/

/-- Two addresses have different high bytes exactly when they lie in different pages. -/
theorem crossed_eq_otherPage (b e : Addr) : crossed b e = otherPage b e := by
  have page : ∀ w : Addr, (w.extractLsb' 8 8).toNat = w.toNat / 256 := by
    intro w
    have := w.isLt
    simp [BitVec.extractLsb'_toNat, Nat.shiftRight_eq_div_pow]
    omega
  rw [Bool.eq_iff_iff, crossed, otherPage, highByte, highByte, bne_iff_ne, decide_eq_true_iff, ← page, ← page]
  exact not_congr BitVec.toNat_inj.symm

/-- A memory operand crosses a page when its mode has a base and the effective address lies in another page. -/
theorem resolve_crossed (m : MemMode) :
    (resolve m s).crossed = ((indexBase m s).map fun b => otherPage b (resolve m s).addr).getD false := by
  cases m <;> simp only [resolve, indexBase, crossed_eq_otherPage, read16zp_eq] <;> rfl

/-! ## The instruction forms -/

/-- The end of the frame: PC and the counters. -/
theorem retire_costs (t : State) (pc : Addr) (k : Nat) (hc : t.cycle = s.cycle) (ht : t.totalCycle = s.totalCycle) :
    Costs k s (t.retire pc k) := ⟨by simp [hc], by simp [ht]⟩

/-- A reading instruction, its effect on the registers given: the registers it computes and the frame of a read. -/
theorem readInstr_frame (m : Src) (extra : Nat) (f : Byte → State → State)
    (hr : ∀ v t, RamKept t (f v t)) (hd : ∀ v t, DevicesAs t (f v t)) (hc : ∀ v t, ControlKept t (f v t))
    (hk : ∀ v t, (f v t).cycle = t.cycle ∧ (f v t).totalCycle = t.totalCycle) :
    ReadFrame m extra s (readInstr m extra f s) where
  pc := by simp [readInstr]
  cost := retire_costs s _ _ _ (by simp [hk]) (by simp [hk])
  ram := ((load_ramKept s m).trans (hr _ _)).trans ⟨rfl, rfl⟩
  devices := (hd _ _).trans ⟨rfl, rfl, rfl, rfl, rfl, rfl⟩
  control := ((load_control s m).trans (hc _ _)).trans ⟨rfl, rfl, rfl, rfl, rfl, rfl, rfl, rfl⟩

/-- A storing instruction. -/
theorem storeInstr_frame (m : MemMode) (v : Byte) : StoreFrame m v s (storeInstr m v s) where
  regs := by simp [storeInstr, State.regs]
  pc := by simp [storeInstr]
  cost := retire_costs s _ _ _ (by simp) (by simp)
  stored := by
    simp only [storeInstr, resolve_st]
    exact (busWrite_stored s (resolve m s).addr v).mono ⟨rfl, rfl⟩
  devices := by simp only [storeInstr, resolve_st]; exact ⟨rfl, rfl, rfl, rfl, rfl, rfl⟩
  control := by
    simp only [storeInstr, resolve_st]
    exact (busWrite_control s _ v).trans ⟨rfl, rfl, rfl, rfl, rfl, rfl, rfl, rfl⟩

/-- A read, a write and a change of flags at one address, then the frame's end. -/
theorem modify_frame (q : Addr) (v : Byte) (f : Flags) (pc : Addr) (k : Nat) :
    ModifyFrame q v pc k s (((busWrite q v (busRead q s).2).setP f).retire pc k) where
  pc := by simp
  cost := retire_costs s _ _ _ (by simp) (by simp)
  stored := (modify_stored s q v).mono ⟨rfl, rfl⟩
  devices := ⟨rfl, rfl, rfl, rfl, rfl, rfl⟩
  control := ((busRead_control s q).trans (busWrite_control _ q v)).trans ⟨rfl, rfl, rfl, rfl, rfl, rfl, rfl, rfl⟩

/-- A read-modify-write instruction in memory. -/
theorem modifyInstr_mem {m : RmwMode} {mm : MemMode} (h : rmwMemMode m = some mm) (cycles : RmwMode → Bool → Nat)
    (f : Byte → Flags → Byte × Flags) :
    modifyInstr m cycles f s =
      (((busWrite (resolve mm s).addr (f (busRead (resolve mm s).addr s).1 s.p).1 (busRead (resolve mm s).addr s).2).setP
        (f (busRead (resolve mm s).addr s).1 s.p).2).retire (s.pc + rmwLength m) (cycles m (resolve mm s).crossed)) := by
  simp [modifyInstr, h]

/-- A register-only instruction. -/
theorem implied_frame (k : Nat) (f : State → State) (hr : RamKept s (f s)) (hd : DevicesAs s (f s))
    (hc : ControlKept s (f s)) (hk : (f s).cycle = s.cycle) (ht : (f s).totalCycle = s.totalCycle) :
    QuietFrame (s.pc + 1) k s (impliedInstr k f s) where
  pc := by simp [impliedInstr]
  cost := retire_costs s _ _ _ hk ht
  ram := hr.trans ⟨rfl, rfl⟩
  devices := hd.trans ⟨rfl, rfl, rfl, rfl, rfl, rfl⟩
  control := hc.trans ⟨rfl, rfl, rfl, rfl, rfl, rfl, rfl, rfl⟩

/-- A push stores its byte in the stack slot and touches no device. -/
theorem push_stored (v : Byte) : Stored (stackAddr s.sp) v s (push v s) :=
  (busWrite_stored s (stackAddr s.sp) v).mono ⟨rfl, rfl⟩

/-- A push leaves the devices. -/
theorem push_devices (v : Byte) : DevicesAs s (push v s) := by constructor <;> simp

/-- A push leaves the control state. -/
theorem push_control (v : Byte) : ControlKept s (push v s) := by constructor <;> simp

/-- A branch changes PC and the counters only. -/
theorem branch_frame (taken : Bool) (pcNext : Addr) (rr : Byte) (base : Nat) :
    (branch taken pcNext rr base s).regs = s.regs
      ∧ QuietFrame (if taken then branchTarget pcNext rr else pcNext)
          (if taken then base + 1 + (crossed pcNext (branchTarget pcNext rr)).toNat else base) s (branch taken pcNext rr base s) := by
  cases taken
  · exact ⟨rfl, ⟨rfl, ⟨rfl, rfl⟩, ⟨rfl, rfl⟩, ⟨rfl, rfl, rfl, rfl, rfl, rfl⟩, ⟨rfl, rfl, rfl, rfl, rfl, rfl, rfl, rfl⟩⟩⟩
  · exact ⟨rfl, ⟨rfl, ⟨rfl, rfl⟩, ⟨rfl, rfl⟩, ⟨rfl, rfl, rfl, rfl, rfl, rfl⟩, ⟨rfl, rfl, rfl, rfl, rfl, rfl, rfl, rfl⟩⟩⟩

end Sys2Proof.Machine
end

