-- ==== Sys2Proof/Laws/Invariant.lean ====
section
/-! SUPPORT. The shared operations of the machine keep the block's invariant: the bus, the stack, interrupt entry, the
trap callback, the fetch, and what is clocked after an instruction. -/

namespace Sys2Proof.Machine

/-- The invariant is about these fields only. -/
theorem Inv.congr {s t : State} (h : Inv s) (hc : t.cfg = s.cfg) (hm : t.ramMain = s.ramMain) (hx : t.ramAux = s.ramAux) (ha : t.audio = s.audio)
  (hd : t.disk = s.disk) (hv : t.video = s.video) (hs : t.sw = s.sw) (ht : t.timers = s.timers) (htt : t.trapTable = s.trapTable) : Inv t := by
  obtain ⟨a, b, c, d, e, f, g⟩ := h
  refine ⟨by rw [hc]; exact a, ?_, by rw [hc, ha]; exact c, by rw [hc, hd]; exact d, ?_, ?_, ?_⟩
  · unfold ramOk; rw [hm, hx]; exact b
  · unfold videoOk; rw [hv, hs]; exact e
  · unfold timersOk; rw [ht]; exact f
  · unfold trapsOk; rw [htt]; exact g

/-! ## The bus -/

/-- A RAM write below $C000 keeps the invariant. -/
theorem setRam_inv {s : State} (h : Inv s) (b : Bank) {a : Nat} (ha : a < 0xC000) (v : Byte) : Inv (s.setRam b a v) := by
  obtain ⟨a, b, c, d, e, f, g⟩ := h
  refine ⟨a, ?_, c, d, e, f, g⟩
  obtain ⟨r1, r2, r3, r4⟩ := b
  unfold ramOk State.setRam
  refine ⟨?_, ?_, ?_, ?_⟩ <;> dsimp only <;> split <;> first | assumption | exact Memory.wf_write ‹_› | exact Memory.below_write ha ‹_›

/-- No access to the I/O page changes `sw.VBL`. -/
theorem sw_vbl (c : Params) (off : Byte) (acc : Access) (sw : SoftSwitches) : (sw.access c off acc).vbl = sw.vbl := by
  unfold SoftSwitches.access
  split <;> first | rfl | (split <;> rfl)

/-- The side effects of an I/O access keep the invariant. -/
theorem ioEffect_inv {s : State} (h : Inv s) (off : Byte) (acc : Access) : Inv (s.ioEffect off acc) := by
  obtain ⟨a, b, c, d, e, f, g⟩ := h
  refine ⟨a, b, ?_, ?_, ?_, f, g⟩
  · simp only [State.ioEffect]; split
    · exact Audio.click_ok a _ c
    · exact c
  · simp only [State.ioEffect]; split
    · exact Disk.access_ok d _ _
    · exact d
  · obtain ⟨e1, e2⟩ := e
    have hv : (s.ioEffect off acc).video.vblPhase = s.video.vblPhase ∧ (s.ioEffect off acc).video.line = s.video.line ∧ (s.ioEffect off acc).video.fb = s.video.fb := by
      simp only [State.ioEffect]; split <;> exact ⟨rfl, rfl, rfl⟩
    have hs : (s.ioEffect off acc).sw.vbl = s.sw.vbl := sw_vbl _ _ _ _
    unfold videoOk
    rw [hv.1, hv.2.1, hv.2.2, hs]
    exact ⟨e1, e2⟩

/-- A bus read keeps the invariant. -/
theorem busRead_inv {s : State} (h : Inv s) (q : Addr) : Inv (busRead q s).2 := by
  unfold busRead
  split
  · exact h
  · split
    · unfold State.ioRead
      split
      · exact ioEffect_inv h _ _
      · exact (ioEffect_inv h (lowByte q) .read).congr rfl rfl rfl rfl rfl rfl rfl rfl rfl
    · split <;> exact h

/-- A bus write keeps the invariant. -/
theorem busWrite_inv {s : State} (h : Inv s) (q : Addr) (v : Byte) : Inv (busWrite q v s) := by
  unfold busWrite
  split
  · exact setRam_inv h _ ‹_› v
  · split
    · exact ioEffect_inv h _ _
    · exact h

/-! ## Registers, stack, interrupt entry -/

theorem push_inv {s : State} (h : Inv s) (v : Byte) : Inv (push v s) := (busWrite_inv h _ _).congr rfl rfl rfl rfl rfl rfl rfl rfl rfl

theorem setSp_inv {s : State} (h : Inv s) (v : Byte) : Inv (s.setSp v) := h.congr rfl rfl rfl rfl rfl rfl rfl rfl rfl

theorem setP_inv {s : State} (h : Inv s) (v : Flags) : Inv (s.setP v) := h.congr rfl rfl rfl rfl rfl rfl rfl rfl rfl

theorem setPc_inv {s : State} (h : Inv s) (v : Addr) : Inv (s.setPc v) := h.congr rfl rfl rfl rfl rfl rfl rfl rfl rfl

theorem retire_inv {s : State} (h : Inv s) (v : Addr) (k : Nat) : Inv (s.retire v k) := h.congr rfl rfl rfl rfl rfl rfl rfl rfl rfl

theorem pull_inv {s : State} (h : Inv s) : Inv (pull s).2 := busRead_inv (setSp_inv h _) _

theorem read16_inv {s : State} (h : Inv s) (q : Addr) : Inv (read16 q s).2 := busRead_inv (busRead_inv h _) _

theorem enter_inv {s : State} (h : Inv s) (v : Addr) (b : Bool) : Inv (enterInterrupt v b s) :=
  setPc_inv (read16_inv (setP_inv (push_inv (push_inv (push_inv h _) _) _) _) _) _

theorem load_inv {s : State} (h : Inv s) (m : Src) : Inv (load m s).st := by
  cases m with
  | imm n => exact h
  | mem m => simp only [load, resolve_st]; exact busRead_inv h _

/-! ## Trap callbacks -/

theorem trapRam_inv (l : List (Bank × Addr × Byte)) {s : State} (h : Inv s) : Inv (l.foldl trapRamWrite s) := by
  induction l generalizing s with
  | nil => exact h
  | cons w l ih =>
    apply ih
    unfold trapRamWrite
    split
    · exact setRam_inv h _ ‹_› _
    · exact h

theorem trapMedia_inv (l : List MediaAction) {s : State} (h : Inv s) : Inv (l.foldl trapMedia s) := by
  induction l generalizing s with
  | nil => exact h
  | cons w l ih =>
    apply ih
    unfold trapMedia
    split
    · obtain ⟨a, b, c, d, e, f, g⟩ := h
      exact ⟨a, b, c, Disk.media_ok d ‹_›, e, f, g⟩
    · exact h

/-- A trap callback, whatever it does, keeps the invariant. -/
theorem callTrap_inv {s : State} (h : Inv s) (k : Nat) : Inv (callTrap k s) := by
  obtain ⟨a, b, c, d, e, f, g⟩ := trapMedia_inv (Config.trapCallback k s.draws s).media (trapRam_inv (Config.trapCallback k s.draws s).ramWrites h)
  refine ⟨a, b, c, d, ?_, f, g⟩
  unfold videoOk at e ⊢
  simp only [callTrap, applyTrap]
  split <;> exact e

/-! ## What is clocked after an instruction -/

theorem diskStep_inv {s : State} (h : Inv s) (k : Nat) : Inv (diskStep k s) := by
  obtain ⟨a, b, c, d, e, f, g⟩ := h
  exact ⟨a, b, c, Disk.run_ok a k d _, e, f, g⟩

theorem runCallback_inv {s : State} (h : Inv s) (cb : TimerCallback) : Inv (runCallback cb s).2 ∧ (runCallback cb s).2.timers = s.timers := by
  cases cb with
  | host id => exact ⟨h.congr rfl rfl rfl rfl rfl rfl rfl rfl rfl, rfl⟩
  | vbl =>
    obtain ⟨a, b, c, d, e, f, g⟩ := h
    simp only [runCallback, vblCallback]
    split
    · exact ⟨⟨a, b, c, d, ⟨rfl, e.2⟩, f, g⟩, rfl⟩
    · exact ⟨⟨a, b, c, d, ⟨rfl, (by decide : 0 < 192), e.2.2⟩, f, g⟩, rfl⟩

theorem stepTimer_inv {s : State} (h : Inv s) (k : Nat) (t : Timer) : Inv (stepTimer k t s).2 ∧ (stepTimer k t s).1.callback = t.callback := by
  unfold stepTimer
  split
  · exact ⟨h, rfl⟩
  · split
    · exact ⟨(runCallback_inv h _).1, rfl⟩
    · exact ⟨h, rfl⟩

theorem stepTimers_inv (l : List Timer) (k : Nat) {s : State} (h : Inv s) : Inv (stepTimers k l s).2 ∧ (stepTimers k l s).1.head?.map (fun t => t.callback) = l.head?.map (fun t => t.callback) := by
  induction l generalizing s with
  | nil => exact ⟨h, rfl⟩
  | cons t l ih =>
    have k1 := stepTimer_inv h k t
    refine ⟨(ih k1.1).1, ?_⟩
    simp only [stepTimers, List.head?_cons, Option.map_some, k1.2]

theorem timerStep_inv {s : State} (h : Inv s) (k : Nat) : Inv (timerStep k s) := by
  obtain ⟨k1, k2⟩ := stepTimers_inv s.timers k h
  obtain ⟨a, b, c, d, e, f, g⟩ := k1
  refine ⟨a, b, c, d, e, ?_, g⟩
  unfold timersOk
  exact k2.trans h.timers

/-! ## The fetch -/

theorem fetchByte1_inv {s : State} (h : Inv s) (c : Params) (op : Byte) (pc : Addr) : Inv (fetchByte1 c op pc s).2 := by
  unfold fetchByte1; split
  · exact busRead_inv h _
  · exact h

theorem fetchByte2_inv {s : State} (h : Inv s) (c : Params) (op : Byte) (pc : Addr) : Inv (fetchByte2 c op pc s).2 := by
  unfold fetchByte2; split
  · exact busRead_inv h _
  · exact h

theorem fetch_inv {s : State} (h : Inv s) : Inv (fetch s).2 :=
  fetchByte2_inv (fetchByte1_inv (busRead_inv h _) _ _ _) _ _ _

end Sys2Proof.Machine
end

