-- ==== Sys2Proof/Tests/Slice0.lean ====
section
/-! SUPPORT. Tests: ill-formed terms refused, every constructor decoded from a word of the spec's encoding lines, vectors of
95_test_vectors.md, and a witness for the hypotheses of every statement that has any. -/

namespace Sys2Proof.Tests

open Sys2Proof Sys2Proof.Machine

set_option Elab.async false

/-! ## Helpers -/

/-- The test ROM of 95_test_vectors.md section 0: NMI to $0500, reset to $0300, IRQ and BRK to $0400. -/
def testRom : Image :=
  .cells [(0x3FFA, 0x00), (0x3FFB, 0x05), (0x3FFC, 0x00), (0x3FFD, 0x03), (0x3FFE, 0x00), (0x3FFF, 0x04)]

/-- The parameters of the vectors: the defaults, the test ROM, and the mixer of section 2.6. -/
def testParams : Params :=
  { Params.standard with
    rom := testRom, lssRom := .cells [], sampleRate := .r22050, ringN := 256, sampleBufferOffset := 128
    volumeNum := 32, volumeDen := 1 }

/-- S0, the start state of the vectors. -/
def s0 : State := State.created testParams

/-- S0 with RAM contents. -/
def withRam (cells : Memory) : State := { s0 with ramMain := cells }

/-- Bytes stored in main RAM from an address on. -/
def placed (s : State) (a : Nat) : List Byte → State
  | [] => s
  | b :: rest => placed (s.setRam .main a b) (a + 1) rest

/-- The state after one step that answers one. -/
def stepped (s : State) : State :=
  match step s with
  | .next t => t
  | .fault _ => s
  | .refused _ => s

/-- One iteration of the run loop with the bytes placed at PC. -/
def ran (bytes : List Byte) (s : State) : State := stepped (placed s s.pc.toNat bytes)

/-- A main RAM byte. -/
def mem (t : State) (a : Nat) : Byte := t.byteAt .main a

/-- The parameters with another policy for undefined opcodes or an untrapped $00. -/
def wdcParams : Params := { testParams with undefPolicy := .wdc }
def interruptParams : Params := { testParams with untrappedBrk := .interrupt }

/-- Flags with one of them, or two, set. -/
def noFlags : Flags := ⟨false, false, false, false, false, false⟩

/-! ## WellFormed: an ill-formed term for each check -/

/-- LDX has no `zp,X` mode (R201). -/
theorem test_wf_mode_refused : (Instr.ldx (.mem (.zpx 0x10))).wellFormed .standard = false := by decide +kernel
/-- STX has no `zp,X`, STZ no `(zp)` mode (R204, R206). -/
theorem test_wf_store_mode_refused :
    (Instr.stx (.zpx 0x10)).wellFormed .standard = false ∧ (Instr.stz (.izp 0x10)).wellFormed .standard = false := by
  decide +kernel
/-- CPX has no indexed mode (R256). -/
theorem test_wf_compare_mode_refused : (Instr.cpx (.mem (.abx 0x1000))).wellFormed .standard = false := by decide +kernel
/-- Without the bit instructions RMB3 is no instruction (R144). -/
theorem test_wf_absent_bit_op_refused :
    (Instr.rmb3 0x10).wellFormed { Params.standard with hasBitOps := false } = false
      ∧ (Instr.rmb3 0x10).wellFormed .standard = true := by decide +kernel
/-- $EA is defined (R143). -/
theorem test_wf_defined_opcode_refused : (Instr.undef 0xEA (.one 0)).wellFormed .standard = false := by decide +kernel
/-- Under `DocNop2` an undefined opcode has one operand byte, under `Wdc` $5C has two (R143). -/
theorem test_wf_operand_count_refused :
    (Instr.undef 0x5C (.two 0 0)).wellFormed .standard = false
      ∧ (Instr.undef 0x5C (.one 0)).wellFormed wdcParams = false
      ∧ (Instr.undef 0x5C (.two 0 0)).wellFormed wdcParams = true := by decide +kernel

/-! ## Decoding: a word for every constructor, from the Encoding line of its rule -/

/-- Does every word of a list decode to the instruction beside it? -/
def decodesAll (c : Params) (l : List (List Byte × Instr)) : Bool :=
  l.all fun e => decide (decode c e.1 = .decoded e.2 [])

theorem test_decode_loads_stores :
    decodesAll .standard
      [([0xA9, 0x42], .lda (.imm 0x42)), ([0xA1, 0x42], .lda (.mem (.izx 0x42))), ([0xB1, 0x42], .lda (.mem (.izy 0x42))),
       ([0xB9, 0x34, 0x12], .lda (.mem (.aby 0x1234))), ([0xBE, 0x34, 0x12], .ldx (.mem (.aby 0x1234))),
       ([0xB4, 0x42], .ldy (.mem (.zpx 0x42))), ([0x92, 0x42], .sta (.izp 0x42)), ([0x96, 0x42], .stx (.zpy 0x42)),
       ([0x8C, 0x34, 0x12], .sty (.abs 0x1234)), ([0x9C, 0x34, 0x12], .stz (.abs 0x1234))] = true := by decide +kernel

theorem test_decode_transfers_stack :
    decodesAll .standard
      [([0xAA], .tax), ([0xA8], .tay), ([0x8A], .txa), ([0x98], .tya), ([0xBA], .tsx), ([0x9A], .txs), ([0x48], .pha),
       ([0x08], .php), ([0xDA], .phx), ([0x5A], .phy), ([0x68], .pla), ([0x28], .plp), ([0xFA], .plx), ([0x7A], .ply)]
      = true := by decide +kernel

theorem test_decode_arithmetic :
    decodesAll .standard
      [([0x69, 0x42], .adc (.imm 0x42)), ([0xED, 0x34, 0x12], .sbc (.mem (.abs 0x1234))), ([0xD2, 0x42], .cmp (.mem (.izp 0x42))),
       ([0xE4, 0x42], .cpx (.mem (.zp 0x42))), ([0xC0, 0x42], .cpy (.imm 0x42)), ([0x1A], .inc .acc), ([0xF6, 0x42], .inc (.zpx 0x42)),
       ([0x3A], .dec .acc), ([0xCE, 0x34, 0x12], .dec (.abs 0x1234)), ([0xE8], .inx), ([0xC8], .iny), ([0xCA], .dex), ([0x88], .dey)]
      = true := by decide +kernel

theorem test_decode_logic_shifts :
    decodesAll .standard
      [([0x35, 0x42], .and (.mem (.zpx 0x42))), ([0x1D, 0x34, 0x12], .ora (.mem (.abx 0x1234))), ([0x51, 0x42], .eor (.mem (.izy 0x42))),
       ([0x89, 0x42], .bit (.imm 0x42)), ([0x04, 0x42], .tsb (.zp 0x42)), ([0x1C, 0x34, 0x12], .trb (.abs 0x1234)),
       ([0x0A], .asl .acc), ([0x4E, 0x34, 0x12], .lsr (.abs 0x1234)), ([0x36, 0x42], .rol (.zpx 0x42)), ([0x66, 0x42], .ror (.zp 0x42))]
      = true := by decide +kernel

theorem test_decode_bit_ops :
    decodesAll .standard
      [([0x07, 0x42], .rmb0 0x42), ([0x17, 0x42], .rmb1 0x42), ([0x27, 0x42], .rmb2 0x42), ([0x37, 0x42], .rmb3 0x42),
       ([0x47, 0x42], .rmb4 0x42), ([0x57, 0x42], .rmb5 0x42), ([0x67, 0x42], .rmb6 0x42), ([0x77, 0x42], .rmb7 0x42),
       ([0x87, 0x42], .smb0 0x42), ([0x97, 0x42], .smb1 0x42), ([0xA7, 0x42], .smb2 0x42), ([0xB7, 0x42], .smb3 0x42),
       ([0xC7, 0x42], .smb4 0x42), ([0xD7, 0x42], .smb5 0x42), ([0xE7, 0x42], .smb6 0x42), ([0xF7, 0x42], .smb7 0x42)]
      = true := by decide +kernel

theorem test_decode_bit_branches :
    decodesAll .standard
      [([0x0F, 0x42, 0xFD], .bbr0 0x42 0xFD), ([0x1F, 0x42, 0xFD], .bbr1 0x42 0xFD), ([0x2F, 0x42, 0xFD], .bbr2 0x42 0xFD),
       ([0x3F, 0x42, 0xFD], .bbr3 0x42 0xFD), ([0x4F, 0x42, 0xFD], .bbr4 0x42 0xFD), ([0x5F, 0x42, 0xFD], .bbr5 0x42 0xFD),
       ([0x6F, 0x42, 0xFD], .bbr6 0x42 0xFD), ([0x7F, 0x42, 0xFD], .bbr7 0x42 0xFD), ([0x8F, 0x42, 0xFD], .bbs0 0x42 0xFD),
       ([0x9F, 0x42, 0xFD], .bbs1 0x42 0xFD), ([0xAF, 0x42, 0xFD], .bbs2 0x42 0xFD), ([0xBF, 0x42, 0xFD], .bbs3 0x42 0xFD),
       ([0xCF, 0x42, 0xFD], .bbs4 0x42 0xFD), ([0xDF, 0x42, 0xFD], .bbs5 0x42 0xFD), ([0xEF, 0x42, 0xFD], .bbs6 0x42 0xFD),
       ([0xFF, 0x42, 0xFD], .bbs7 0x42 0xFD)] = true := by decide +kernel

theorem test_decode_control :
    decodesAll .standard
      [([0x10, 0xFE], .bpl 0xFE), ([0x30, 0xFE], .bmi 0xFE), ([0x50, 0xFE], .bvc 0xFE), ([0x70, 0xFE], .bvs 0xFE),
       ([0x90, 0xFE], .bcc 0xFE), ([0xB0, 0xFE], .bcs 0xFE), ([0xD0, 0xFE], .bne 0xFE), ([0xF0, 0xFE], .beq 0xFE),
       ([0x80, 0xFE], .bra 0xFE), ([0x4C, 0x34, 0x12], .jmp (.abs 0x1234)), ([0x6C, 0x34, 0x12], .jmp (.ind 0x1234)),
       ([0x7C, 0x34, 0x12], .jmp (.iax 0x1234)), ([0x20, 0x34, 0x12], .jsr 0x1234), ([0x60], .rts), ([0x40], .rti),
       ([0x00, 0x05], .brk 0x05)] = true := by decide +kernel

theorem test_decode_flags_undefined :
    decodesAll .standard
      [([0x18], .clc), ([0x38], .sec), ([0x58], .cli), ([0x78], .sei), ([0xD8], .cld), ([0xF8], .sed), ([0xB8], .clv),
       ([0xEA], .nop), ([0x5C, 0x30], .undef 0x5C (.one 0x30))] = true
    ∧ decodesAll wdcParams
      [([0x5C, 0x30, 0xC0], .undef 0x5C (.two 0x30 0xC0)), ([0x03], .undef 0x03 .none), ([0x44, 0x10], .undef 0x44 (.one 0x10))]
      = true := by decide +kernel

/-- The host's numbering: the first byte in bits 7 to 0. -/
theorem test_decode_table_word :
    decodeTableWord 24 0x1234BD = some (.lda (.mem (.abx 0x1234))) ∧ decodeTableWord 8 0xEA = some .nop
      ∧ decodeTableWord 8 0xA9 = some (.lda (.imm 0)) := by decide +kernel

/-- A placed instruction is the first thing that runs after reset. -/
theorem test_with_fetch_word :
    (fun t : State => (t.a, t.pc)) (stepped (State.reset.withFetchWord 16 0x42A9)) = (0x42, 0x0302) := by decide +kernel

/-! ## Loads and stores: vectors V20 to V30 -/

theorem test_v21_lda_crossed :
    (fun t : State => (t.a, t.totalCycle)) (ran [0xBD, 0x01, 0x20] { withRam [(0x2100, 0x42)] with x := 0xFF }) = (0x42, 5) := by
  decide +kernel
theorem test_v23_lda_pointer_wraps :
    (fun t : State => (t.a, t.totalCycle)) (ran [0xA1, 0xFF] (withRam [(0x00, 0x12), (0xFF, 0x34), (0x1234, 0x77)])) = (0x77, 6) := by
  decide +kernel
theorem test_v26_ldx_index_wraps :
    (fun t : State => (t.x, t.p.n, t.totalCycle)) (ran [0xB6, 0xFF] { withRam [(0x01, 0x80)] with y := 2 }) = (0x80, true, 4) := by
  decide +kernel
/-- LDY by R202: `$20FF + 1` crosses a page. -/
theorem test_ldy_zero :
    (fun t : State => (t.y, t.p.z, t.totalCycle)) (ran [0xBC, 0xFF, 0x20] { s0 with x := 1, y := 9 }) = (0, true, 5) := by
  decide +kernel
theorem test_v27_sta_no_penalty :
    (fun t : State => (mem t 0x2100, t.totalCycle)) (ran [0x9D, 0x01, 0x20] { s0 with x := 0xFF, a := 0x55 }) = (0x55, 5) := by
  decide +kernel
theorem test_v29_sta_rom_ignored :
    (fun t : State => (t.ramMain, t.totalCycle)) (ran [0x8D, 0x00, 0xE0] { s0 with a := 0x12 })
      = ([(0x300, 0x8D), (0x302, 0xE0)], 4) := by decide +kernel
/-- STX by R204, STY by R205. -/
theorem test_stx_sty :
    mem (ran [0x96, 0xFF] { s0 with x := 0x66, y := 3 }) 0x02 = 0x66
      ∧ mem (ran [0x94, 0xFF] { s0 with x := 3, y := 0x77 }) 0x02 = 0x77 := by decide +kernel
theorem test_v28_stz :
    (fun t : State => (mem t 0x2100, t.totalCycle)) (ran [0x9E, 0xFF, 0x20] { withRam [(0x2100, 0x55)] with x := 1 }) = (0, 5) := by
  decide +kernel

/-! ## Transfers and the stack: vectors V31 to V37 -/

theorem test_v31_php :
    (fun t : State => (mem t 0x1FF, t.sp, t.totalCycle)) (ran [0x08] { s0 with sp := 0xFF, p := { noFlags with n := true, c := true } })
      = (0xB1, 0xFE, 3) := by decide +kernel
theorem test_v32_plp :
    (fun t : State => (t.p, t.sp, t.totalCycle)) (ran [0x28] { withRam [(0x1FF, 0xFF)] with sp := 0xFE })
      = (⟨true, true, true, true, true, true⟩, 0xFF, 4) := by decide +kernel
theorem test_v33_pha_wraps :
    (fun t : State => (mem t 0x100, t.sp, t.totalCycle)) (ran [0x48] { s0 with a := 0x77 }) = (0x77, 0xFF, 3) := by decide +kernel
/-- PHX and PHY by R228 and R229. -/
theorem test_phx_phy :
    mem (ran [0xDA] { s0 with sp := 0x80, x := 0x11 }) 0x180 = 0x11 ∧ mem (ran [0x5A] { s0 with sp := 0x80, y := 0x22 }) 0x180 = 0x22 := by
  decide +kernel
theorem test_v34_pla_wraps :
    (fun t : State => (t.a, t.p.z, t.sp, t.totalCycle)) (ran [0x68] { s0 with sp := 0xFF, a := 1 }) = (0, true, 0, 4) := by decide +kernel
/-- PLX and PLY by R232 and R233. -/
theorem test_plx_ply :
    (fun t : State => (t.x, t.p.n)) (ran [0xFA] (withRam [(0x101, 0x90)])) = (0x90, true)
      ∧ (fun t : State => (t.y, t.p.n)) (ran [0x7A] (withRam [(0x101, 0x90)])) = (0x90, true) := by decide +kernel
theorem test_v35_txs :
    (fun t : State => (t.sp, t.p.n, t.p.z)) (ran [0x9A] { s0 with sp := 5, p := { noFlags with n := true } }) = (0, true, false) := by
  decide +kernel
theorem test_v36_tsx :
    (fun t : State => (t.x, t.p.n, t.p.z)) (ran [0xBA] { s0 with sp := 0x80 }) = (0x80, true, false) := by decide +kernel
theorem test_v37_tax : (fun t : State => (t.x, t.p.z)) (ran [0xAA] { s0 with x := 5 }) = (0, true) := by decide +kernel
/-- TAY, TXA and TYA by R221 to R223. -/
theorem test_tay_txa_tya :
    (ran [0xA8] { s0 with a := 1, x := 2, y := 3 }).y = 1 ∧ (ran [0x8A] { s0 with a := 1, x := 2, y := 3 }).a = 2
      ∧ (ran [0x98] { s0 with a := 1, x := 2, y := 3 }).a = 3 := by decide +kernel

/-! ## Arithmetic: vectors V38 to V58 -/

theorem test_v39_adc :
    (fun t : State => (t.a, t.p.z, t.p.v, t.p.c, t.totalCycle)) (ran [0x69, 0x80] { s0 with a := 0x80 })
      = (0, true, true, true, 2) := by decide +kernel
theorem test_v45_adc_decimal :
    (fun t : State => (t.a, t.p.n, t.p.v, t.p.c, t.totalCycle)) (ran [0x69, 0x46] { s0 with a := 0x58, p := { noFlags with d := true } })
      = (0x04, false, true, true, 3) := by decide +kernel
theorem test_v42_sbc :
    (fun t : State => (t.a, t.p.v, t.p.c, t.p.n)) (ran [0xE9, 0x01] { s0 with a := 0x80, p := { noFlags with c := true } })
      = (0x7F, true, true, false) := by decide +kernel
theorem test_v51_sbc_decimal :
    (fun t : State => (t.a, t.p.n, t.p.c, t.totalCycle)) (ran [0xE9, 0x01] { s0 with p := { noFlags with d := true } })
      = (0x98, true, false, 3) := by decide +kernel
theorem test_v52_cmp :
    (fun t : State => (t.a, t.p.n, t.p.z, t.p.c)) (ran [0xC9, 0x80] s0) = (0, true, false, false) := by decide +kernel
theorem test_v54_cpx :
    (fun t : State => (t.p.n, t.p.z, t.p.c)) (ran [0xE0, 0x06] { s0 with x := 5 }) = (true, false, false) := by decide +kernel
theorem test_v55_cpy :
    (fun t : State => (t.p.n, t.p.z, t.p.c)) (ran [0xC0, 0x01] { s0 with y := 0x10 }) = (false, false, true) := by decide +kernel
theorem test_v57_inc :
    (fun t : State => (mem t 0x2100, t.p.z, t.totalCycle)) (ran [0xFE, 0xFF, 0x20] { withRam [(0x2100, 0xFF)] with x := 1 })
      = (0, true, 7) := by decide +kernel
theorem test_v58_dec : (fun t : State => (t.a, t.p.n, t.totalCycle)) (ran [0x3A] s0) = (0xFF, true, 2) := by decide +kernel
/-- INX, INY, DEX and DEY wrap by R260 to R263. -/
theorem test_index_steps :
    (ran [0xE8] { s0 with x := 0xFF }).x = 0 ∧ (ran [0xC8] { s0 with y := 0xFF }).y = 0 ∧ (ran [0xCA] s0).x = 0xFF
      ∧ (ran [0x88] s0).y = 0xFF := by decide +kernel

/-! ## Logic, shifts and bit instructions: vectors V59 to V72 -/

theorem test_v59_logic :
    (ran [0x29, 0x0F] { s0 with a := 0xF0 }).a = 0 ∧ (ran [0x09, 0x80] s0).a = 0x80 ∧ (ran [0x49, 0xFF] { s0 with a := 0x0F }).a = 0xF0 := by
  decide +kernel
theorem test_v61_bit_immediate :
    (fun t : State => (t.p.z, t.p.n, t.p.v)) (ran [0x89, 0xC0] s0) = (true, false, false) := by decide +kernel
theorem test_v62_bit :
    (fun t : State => (t.p.z, t.p.n, t.p.v)) (ran [0x24, 0x10] { withRam [(0x10, 0xC0)] with a := 1 }) = (true, true, true) := by
  decide +kernel
theorem test_v63_trb :
    (fun t : State => (mem t 0x10, t.p.z, t.totalCycle)) (ran [0x14, 0x10] { withRam [(0x10, 0xFF)] with a := 0x0F }) = (0xF0, false, 5) := by
  decide +kernel
theorem test_v64_tsb :
    (fun t : State => (mem t 0x10, t.p.z, t.totalCycle)) (ran [0x04, 0x10] { withRam [(0x10, 0xF0)] with a := 1 }) = (0xF1, true, 5) := by
  decide +kernel
theorem test_v65_ror :
    (fun t : State => (t.a, t.p.c, t.p.n)) (ran [0x6A] { s0 with a := 1, p := { noFlags with c := true } }) = (0x80, true, true) := by
  decide +kernel
theorem test_v66_rol :
    (fun t : State => (mem t 0x10, t.p.c, t.p.z)) (ran [0x26, 0x10] (withRam [(0x10, 0x80)])) = (0, true, true) := by decide +kernel
theorem test_v67_lsr : (fun t : State => (t.a, t.p.c, t.p.z)) (ran [0x4A] { s0 with a := 1 }) = (0, true, true) := by decide +kernel
theorem test_v68_asl :
    (fun t : State => (mem t 0x2100, t.p.c, t.totalCycle)) (ran [0x1E, 0xFF, 0x20] { withRam [(0x2100, 0x81)] with x := 1 })
      = (2, true, 7) := by decide +kernel
/-- V69, and the other RMBn by R301 to R308. -/
theorem test_rmb :
    [0x07#8, 0x17, 0x27, 0x37, 0x47, 0x57, 0x67, 0x77].map (fun op => mem (ran [op, 0x10] (withRam [(0x10, 0xFF)])) 0x10)
      = [0xFE, 0xFD, 0xFB, 0xF7, 0xEF, 0xDF, 0xBF, 0x7F] := by decide +kernel
/-- V70, and the other SMBn by R311 to R318. -/
theorem test_smb :
    [0x87#8, 0x97, 0xA7, 0xB7, 0xC7, 0xD7, 0xE7, 0xF7].map (fun op => mem (ran [op, 0x10] s0) 0x10)
      = [0x01, 0x02, 0x04, 0x08, 0x10, 0x20, 0x40, 0x80] := by decide +kernel
/-- BBRn with only bit n clear branch, by R321 to R328; V72 for the page crossing. -/
theorem test_bbr :
    [(0x0F#8, 0xFE#8), (0x1F, 0xFD), (0x2F, 0xFB), (0x3F, 0xF7), (0x4F, 0xEF), (0x5F, 0xDF), (0x6F, 0xBF), (0x7F, 0x7F)].map
        (fun e => (ran [e.1, 0x10, 0x05] (withRam [(0x10, e.2)])).pc)
      = [0x308, 0x308, 0x308, 0x308, 0x308, 0x308, 0x308, 0x308]
    ∧ (fun t : State => (t.pc, t.totalCycle)) (ran [0x0F, 0x10, 0x7F] { s0 with pc := 0x02F0 }) = (0x0372, 7) := by decide +kernel
/-- BBSn with only bit n set branch, by R331 to R338; V71 for the branch not taken. -/
theorem test_bbs :
    [(0x8F#8, 0x01#8), (0x9F, 0x02), (0xAF, 0x04), (0xBF, 0x08), (0xCF, 0x10), (0xDF, 0x20), (0xEF, 0x40), (0xFF, 0x80)].map
        (fun e => (ran [e.1, 0x10, 0x05] (withRam [(0x10, e.2)])).pc)
      = [0x308, 0x308, 0x308, 0x308, 0x308, 0x308, 0x308, 0x308]
    ∧ (fun t : State => (t.pc, t.totalCycle)) (ran [0x8F, 0x10, 0x05] s0) = (0x0303, 5) := by decide +kernel

/-! ## Control: vectors V73 and V60 -/

/-- Every flag 0: BPL, BVC, BCC, BNE and BRA are taken, BMI, BVS, BCS and BEQ are not (R341 to R349). -/
theorem test_branch_conditions :
    [0x10#8, 0x50, 0x90, 0xD0, 0x80, 0x30, 0x70, 0xB0, 0xF0].map (fun op => (ran [op, 0x10] s0).pc)
      = [0x312, 0x312, 0x312, 0x312, 0x312, 0x302, 0x302, 0x302, 0x302]
    ∧ [0x10#8, 0x50, 0x90, 0xD0, 0x80, 0x30, 0x70, 0xB0, 0xF0].map
        (fun op => (ran [op, 0x10] { s0 with p := ⟨true, true, false, true, true, true⟩ }).pc)
      = [0x302, 0x302, 0x302, 0x302, 0x312, 0x312, 0x312, 0x312, 0x312] := by decide +kernel
theorem test_v73a_bne_crossed :
    (fun t : State => (t.pc, t.totalCycle)) (ran [0xD0, 0x7F] { s0 with pc := 0x02F0 }) = (0x0371, 4) := by decide +kernel
theorem test_v73d_bra_self : (fun t : State => (t.pc, t.totalCycle)) (ran [0x80, 0xFE] s0) = (0x0300, 3) := by decide +kernel
theorem test_v73e_jmp_indirect : (fun t : State => (t.pc, t.totalCycle)) (ran [0x6C, 0xFF, 0x02] s0) = (0x6C00, 6) := by decide +kernel
theorem test_v73f_jmp_indexed :
    (fun t : State => (t.pc, t.totalCycle)) (ran [0x7C, 0x00, 0x10] { withRam [(0x1002, 0x34), (0x1003, 0x12)] with x := 2 })
      = (0x1234, 6) := by decide +kernel
theorem test_v73g_jsr :
    (fun t : State => (mem t 0x100, mem t 0x1FF, t.sp, t.pc, t.totalCycle)) (ran [0x20, 0x00, 0x10] s0) = (0x03, 0x02, 0xFE, 0x1000, 6) := by
  decide +kernel
theorem test_v73h_rts :
    (fun t : State => (t.pc, t.sp, t.totalCycle)) (ran [0x60] { withRam [(0x1FE, 0xFF), (0x1FF, 0xFF)] with sp := 0xFD }) = (0, 0xFF, 6) := by
  decide +kernel
theorem test_v73i_rti :
    (fun t : State => (t.pc, t.p, t.sp, t.totalCycle))
        (ran [0x40] { withRam [(0x1FD, 0xFF), (0x1FE, 0x34), (0x1FF, 0x12)] with sp := 0xFC })
      = (0x1234, ⟨true, true, true, true, true, true⟩, 0xFF, 6) := by decide +kernel
theorem test_v73n_brk_nop2 :
    (fun t : State => (t.pc, t.faultLog, t.sp, t.totalCycle)) (ran [0x00, 0x05] { s0 with sp := 0xFF }) = (0x0302, [(0x0300, 0)], 0xFF, 2) := by
  decide +kernel
theorem test_v73o_brk_interrupt :
    (fun t : State => (mem t 0x1FF, mem t 0x1FE, mem t 0x1FD, t.sp, t.p.d, t.pc, t.totalCycle))
        (ran [0x00, 0x05] { State.created interruptParams with sp := 0xFF })
      = (0x03, 0x02, 0x34, 0xFC, false, 0x0400, 7) := by decide +kernel
theorem test_v73_flag_instructions :
    (ran [0x58] s0).p.i = false ∧ (ran [0x78] { s0 with p := noFlags }).p.i = true ∧ (ran [0xB8] { s0 with p := { noFlags with v := true } }).p.v = false
      ∧ (ran [0x38] s0).p.c = true ∧ (ran [0x18] { s0 with p := { noFlags with c := true } }).p.c = false ∧ (ran [0xF8] s0).p.d = true
      ∧ (ran [0xD8] { s0 with p := { noFlags with d := true } }).p.d = false := by decide +kernel
theorem test_v73r_nop : (fun t : State => (t.pc, t.p, t.totalCycle)) (ran [0xEA] s0) = (0x0301, s0.p, 2) := by decide +kernel
theorem test_v73j_undefined_docnop2 :
    (fun t : State => (t.pc, t.faultLog, t.audio.speaker, t.totalCycle)) (ran [0x5C, 0x30, 0xC0] s0) = (0x0302, [(0x0300, 0x5C)], -256, 2) := by
  decide +kernel
theorem test_v73k_undefined_wdc :
    (fun t : State => (t.pc, t.audio.speaker, t.totalCycle)) (ran [0x5C, 0x30, 0xC0] (State.created wdcParams)) = (0x0303, 256, 8) := by
  decide +kernel

/-! ## Interrupts, audio, timers: vectors V75, V76, V80, V85, V86 -/

theorem test_v85_nmi_then_rti :
    (fun t : State => (mem t 0x1FF, mem t 0x1FE, mem t 0x1FD, t.sp, t.pc, t.nmiPending, t.totalCycle))
        (stepped { s0 with sp := 0xFF, nmiPending := true })
      = (0x03, 0x00, 0x24, 0xFC, 0x0500, false, 7) := by decide +kernel
theorem test_v86_masked_irq : (ran [0xEA] { s0 with irqLine := true }).pc = 0x0301 := by decide +kernel
theorem test_v75_two_clicks :
    (fun t : State => (t.audio.speaker, t.audio.write, t.totalCycle)) (ran [0xEE, 0x30, 0xC0] s0) = (-256, 0, 6) := by decide +kernel
theorem test_v76_overrun :
    (fun au : Audio => (au.write, au.read, au.ring, au.speaker))
        (((Audio.create { testParams with ringN := 8, sampleBufferOffset := 6 }).click { testParams with ringN := 8, sampleBufferOffset := 6 } 232).click
          { testParams with ringN := 8, sampleBufferOffset := 6 } 463)
      = (2, 3, [256, 256, -256, -256, -256, 256, 256, 256], -256) := by decide +kernel
theorem test_v10_reanchor :
    (fun au : Audio => (au.write, au.read, au.currentSample, au.speaker)) (s0.audio.click testParams 5925) = (128, 0, 128, 256) := by
  decide +kernel
theorem test_v80_overshoot :
    (timerStep 7 { s0 with timers := [⟨3, .vbl, "VBL"⟩] }).timers = [⟨4550, .vbl, "VBL"⟩] := by decide +kernel

/-- At SPEED 1.5 (R458) four cycles count as six, and `create` takes the speed it is given. -/
theorem test_speed_scales :
    (timerStep 4 { State.created { testParams with speed := ⟨1, 1⟩ } with timers := [⟨7, .vbl, "VBL"⟩] }).timers
      = [⟨1, .vbl, "VBL"⟩] := by decide +kernel
/-- `run_cycles(3)` over $00 bytes of 2 cycles each needs two iterations (R452): one is no answer yet, two and more are. -/
theorem test_run_cycles_fuel :
    [1, 2, 9].map (fun fuel => match runCycles 3 fuel s0 with
      | .next t => some (t.cycle, t.pc)
      | _ => none) = [none, some (4, 0x0304), some (4, 0x0304)] := by decide +kernel

/-- R136, R141: $7D is `4pd`, $90 `2b`, $80 `3p`, $9D 5, $DE 7. From base $12FF with X = 1 and D = 1 ADC abs,X adds two cycles,
and STA abs,X none. -/
theorem test_penalties :
    [0x7D, 0x90, 0x80, 0x9D, 0xDE].map cycleCell = [.pd 4, .b 2, .p 3, .n 5, .n 7]
      ∧ [Instr.adc (.mem (.abx 0x12FF)), .sta (.abx 0x12FF), .bcc 0x7F, .bcc 0xFD, .bcs 0x7F].map (fun i =>
          penalty (cycleCell ((opcodeOf i).getD 0)) i { s0 with x := 1, p := { noFlags with d := true } }) = [2, 0, 1, 2, 0] := by
  decide +kernel

/-! ## Disk II: vectors V88, V91, V98 to V102 -/

/-- A medium whose every quarter-track is track 0, of 51 200 bits with bit 10 set. -/
def testMedium : Medium :=
  ⟨List.replicate 160 (.track 0), List.replicate 35 ⟨51200, [(1, 0x20)], false⟩⟩

/-- A controller with that medium in drive 0 and the motor on. -/
def testDisk : Disk :=
  { Disk.create with
    motor := true
    drive0 := { Drive.create with medium := some testMedium, currTrack := [(1, 0x20)], motor := true } }

/-- R640, R53 and R601: a PRESERVE mount keeps 51 210 over a track of 51 200 bits, where `bit_position` is 10 and that bit is
set; the next move takes it to 11. -/
theorem test_preserve_mount :
    (fun d : Drive => (d.headPosition, d.bitPosition, (d.readBit 0).1, d.advance.headPosition))
        ({ testDisk.drive0 with medium := none, currTrack := [], headPosition := 51210 }.mount testMedium true .preserve)
      = (51210, 10, true, 11) := by decide +kernel

theorem test_v88_read_cell :
    (fun q : Disk × Nat => (q.1.clock, q.1.head, q.1.rp, q.1.lssState, q.1.dataRegister, q.1.drive0.bitPosition))
        (Disk.lssStep { testParams with lssRom := .cells [(0x01, 0x2D)] }
          { testDisk with clock := 28, drive0 := { testDisk.drive0 with headPosition := 10 } } 0)
      = (0, true, true, 2, 0x01, 11) := by decide +kernel
theorem test_v91_load :
    (fun q : Disk × Nat => q.1.dataRegister)
        (Disk.lssStep { testParams with lssRom := .cells [(0x0E, 0x0B)] }
          { testDisk with q7 := true, q6 := true, dataRegister := 0x80, writeRegister := 0xD5 } 0) = 0xD5 := by decide +kernel
theorem test_v92_write_cell :
    (fun q : Disk × Nat => (trackBit q.1.drive0.currTrack 7, q.1.drive0.bitPosition,
        q.1.drive0.medium.map fun m => (m.trackAt 0).map fun t => t.dirty))
        (Disk.lssStep testParams
          { testDisk with clock := 28, q7 := true, dataRegister := 0x80, drive0 := { testDisk.drive0 with headPosition := 7 } } 0)
      = (true, 8, some (some true)) := by decide +kernel
theorem test_v98_q6 :
    (fun r : Byte × State => (r.1, r.2.disk.q6)) (busRead 0xC0EC { s0 with disk := { testDisk with q6 := true, dataRegister := 0x96 } })
      = (0x96, false) := by decide +kernel
theorem test_v101_motor :
    (fun t : State => (t.disk.motor, (busRead 0xC0E8 t).2.disk.motor)) (busRead 0xC0E9 s0).2 = (true, false) := by decide +kernel
/-- The stepper table of section 2.9. -/
theorem test_stepper_table :
    [1, 2, 3, 4, 5, 6, 7, 8].map (fun n => (((List.take n [0xC0E3#16, 0xC0E0, 0xC0E5, 0xC0E2, 0xC0E7, 0xC0E4, 0xC0E1, 0xC0E6]).foldl
        (fun s q => (busRead q s).2) s0).disk.drive0.qtrack)) = [1, 1, 2, 3, 4, 5, 6, 7] := by decide +kernel

/-! ## Video: vectors V103 to V107 -/

theorem test_v103_text_addresses :
    [(0, 0), (1, 0), (7, 0), (8, 0), (16, 0), (23, 39)].map (fun e => textAddr false e.1 e.2)
      = [0x400, 0x480, 0x780, 0x428, 0x450, 0x7F7] := by decide +kernel
theorem test_v104_hires_addresses :
    [0, 1, 7, 8, 64, 128, 191].map (hiresAddr false) = [0x2000, 0x2400, 0x3C00, 0x2080, 0x2028, 0x2050, 0x3FD0] := by decide +kernel
theorem test_v105_blink :
    [charCode false 0x10 0x41, charCode false 0x0F 0x41, charCode false 0x10 0xC1, charCode true 0x10 0x41] = [0x81, 0x01, 0xC1, 0x41] := by
  decide +kernel
theorem test_v106_lo_res :
    (linePixel (withRam [(0x400, 0xC5)]) 0 7, linePixel (withRam [(0x400, 0xC5)]) 4 0) = (⟨5, false⟩, ⟨12, false⟩) := by decide +kernel
/-- The rows $05 and $AA of V107. -/
theorem test_v107_hgr :
    (List.range 7).map (hgrIndex (withRam [(0x2000, 0x05)]) 0) = [3, 3, 3, 0, 0, 0, 0]
      ∧ (List.range 7).map (hgrIndex (withRam [(0x2000, 0xAA)]) 0) = [0, 9, 9, 9, 9, 9, 0] := by decide +kernel

/-- R508: with bits 1 and 5 of a glyph line, the pixels of its cell are 1, 0, 1, 0. -/
theorem test_text80 :
    (List.range 4).map (linePixel { State.created { testParams with charRom := .cells [(0, 0x22)] } with
      sw := { s0.sw with text := true, col80 := true } } 0) = [⟨15, false⟩, ⟨0, false⟩, ⟨15, false⟩, ⟨0, false⟩] := by decide +kernel
/-- D12: at creation both colour tables are 16 entries of 0. -/
theorem test_created_colour_tables :
    s0.video.clut.map (fun c => c.1 ||| c.2.1 ||| c.2.2) = List.replicate 16 0
    ∧ s0.video.clutLow.map (fun c => c.1 ||| c.2.1 ||| c.2.2) = List.replicate 16 0 := by decide +kernel
/-- R540: the options change at once, what they select at the next `render_frame`. -/
theorem test_options_effective_at_render :
    (setVideoOptions false 3 true s0).video.clut = s0.video.clut
    ∧ (renderFrame (setVideoOptions false 3 true s0)).video.clut = paletteClut false 3
    ∧ charGlyph { testParams with charRom := .cells [(0x1208, 0x22)] } true 0x41 0 = 0x22 := ⟨rfl, rfl, by decide +kernel⟩
/-- R530: index 6 selects palette 0, whose colour 15 is white in colour; black is black in monochrome too; V halves in monochrome; 200 red at full saturation keeps
0.75 of V, 150, and a saturation of 0.75, 150 / 4 rounded up. -/
theorem test_palette :
    paletteInForce false 5 = 5 ∧ paletteInForce false 6 = 0 ∧ clutColour false 0 15 = (255, 255, 255)
      ∧ (paletteClut true 6).getD 0 (1, 1, 1) = (0, 0, 0) ∧ dimComponent true 254 254 false = 127
      ∧ [dimComponent false 200 200 false, dimComponent false 200 0 true] = [150, 38] := by decide +kernel

/-! ## Witnesses: concrete states and operands that meet the hypotheses of each statement, clause by clause, at boundaries -/

theorem witness_DecodeInvertsEncode :
    (Instr.ror (.abx 0xFFFF)).wellFormed .standard = true ∧ (Instr.undef 0xFC (.two 0xFF 0)).wellFormed wdcParams = true := by
  decide +kernel
theorem witness_EncodeInvertsDecode :
    decode .standard [0xFF, 0, 0xFF, 0x77] = .decoded (.bbs7 0 0xFF) [0x77] ∧ decode .standard [0xEA] = .decoded .nop [] := by
  decide +kernel
theorem witness_SequentialPcAdvance :
    (Instr.lda (.mem (.abx 0xFFFF))).wellFormed s0.cfg = true ∧ assignsPc (.lda (.mem (.abx 0xFFFF))) = false := by decide +kernel
/-- At $BFFD, just below the I/O page, and at $C100, just above it. -/
theorem witness_StepRunsDecodedInstruction :
    [0xBFFD#16, 0xC100#16].all (fun pc =>
      decide (∀ k : Fin 3, (pc + BitVec.ofNat 16 k.val).toNat < 0xC000 ∨ 0xC100 ≤ (pc + BitVec.ofNat 16 k.val).toNat)) = true
    ∧ s0.nmiPending = false ∧ s0.irqLine = false
    ∧ decode s0.cfg [(busRead 0xBFFD { s0 with pc := 0xBFFD }).1, (busRead 0xBFFE { s0 with pc := 0xBFFD }).1,
        (busRead 0xBFFF { s0 with pc := 0xBFFD }).1] = .decoded (.brk 0) [0] := by decide +kernel
theorem witness_InterruptCheck :
    ({ s0 with nmiPending := true }).nmiPending = true
    ∧ (fun s : State => (s.nmiPending, s.irqLine, s.p.i)) { s0 with irqLine := true, p := noFlags } = (false, true, false)
    ∧ (fun s : State => (s.nmiPending, s.irqLine, s.p.i)) { s0 with irqLine := true } = (false, true, true)
    ∧ [0xEA#8, 0xA9#8, 0xAD#8].map (fun op => opcodeLength s0.cfg (busRead 0x0300 (withRam [(0x300, op)])).1) = [1, 2, 3] := by
  decide +kernel
theorem witness_InterruptEntryEffect :
    (0xFFFA#16, 0x3FFA) ∈ [(0xFFFA#16, 0x3FFA), (0xFFFE#16, 0x3FFE)] ∧ (withRam [(0, 1), (0xBFFF, 2)]).ramMain.wf = true
      ∧ s0.ramAux.wf = true
      ∧ (∀ k ∈ [0#8, 1#8, 2#8], (Bank.aux, 0x100) ≠ (s0.bankOf (stackAddr (s0.sp - k)) true, 256 + (s0.sp - k).toNat))
      ∧ (∀ k ∈ [0#8, 1#8, 2#8], (Bank.main, 0x101) ≠ (s0.bankOf (stackAddr (s0.sp - k)) true, 256 + (s0.sp - k).toNat)) := by
  decide +kernel
theorem witness_BusAddressMap :
    (0xBFFF#16).toNat < 0xC000 ∧ 0xC000 ≤ (0xC000#16).toNat ∧ (0xC0FF#16).toNat < 0xC100 ∧ 0xC100 ≤ (0xC100#16).toNat
      ∧ (0xCFFF#16).toNat < 0xD000 ∧ 0xD000 ≤ (0xD000#16).toNat ∧ s0.cfg.bankSel = .specDefault := by decide +kernel
theorem witness_RamLaw :
    (0xBFFF#16).toNat < 0xC000 ∧ (0x0000#16).toNat < 0xC000 ∧ 0x0000#16 ≠ 0xBFFF#16 ∧ s0.ramMain.wf = true ∧ s0.ramAux.wf = true
      ∧ s0.bankOf 0xBFFF true = s0.bankOf 0xBFFF false := by decide +kernel
/-- Offsets at the edges of the clauses: $0F, $10, $19, and $E1 beside $E0 of the drive in slot 6. -/
theorem witness_IoPageReads :
    (0x0F#8).toNat < 0x10 ∧ 0x10 ≤ (0x10#8).toNat ∧ 0x10#8 ≠ 0x19#8
      ∧ ¬ ((0xE1#8).toNat / 16 = 8 + s0.cfg.diskSlot.val ∧ (0xE1#8).toNat % 2 = 0)
      ∧ ((0xE0#8).toNat / 16 = 8 + s0.cfg.diskSlot.val ∧ (0xE0#8).toNat % 2 = 0) := by decide +kernel
theorem witness_SoftSwitchAccess :
    0x58#8 ∉ [0x00#8, 0x01#8, 0x0C#8, 0x0D#8, 0x0E#8, 0x0F#8, 0x50#8, 0x51#8, 0x52#8, 0x53#8, 0x54#8, 0x55#8, 0x56#8, 0x57#8, 0x5E#8, 0x5F#8]
      ∧ s0.cfg.an3ModeUpdate = .specDefault := by decide +kernel
theorem witness_OperandAddressing :
    (resolve (.abx 0xBF00) { s0 with x := 0xFF }).addr.toNat < 0xC000
      ∧ (0xBF01#16 + (0#8 ++ 0xFF#8)).toNat / 256 ≠ (0xBF01#16).toNat / 256 := by decide +kernel
theorem witness_BaseCyclesOfTheTable :
    (Instr.adc (.mem (.izy 0x10))).wellFormed s0.cfg = true ∧ opcodeOf (.adc (.mem (.izy 0x10))) = some 0x71
      ∧ (∀ t, Instr.adc (.mem (.izy 0x10)) ≠ .brk t) ∧ (∀ o r, Instr.adc (.mem (.izy 0x10)) ≠ .undef o r) :=
  ⟨by decide +kernel, by decide +kernel, nofun, nofun⟩
theorem witness_AdcResult_SbcResult_OverflowIsSigned :
    s0.p.d = false ∧ ({ s0 with p := { noFlags with d := true } }).p.d = true := by decide +kernel
theorem witness_DecimalModeOnBcd :
    (fun s : State => s.p.d = true ∧ (s.a.toNat % 16 < 10 ∧ s.a.toNat / 16 < 10)
      ∧ ((load (.imm 0x99) s).value.toNat % 16 < 10 ∧ (load (.imm 0x99) s).value.toNat / 16 < 10))
      { s0 with a := 0x99, p := { noFlags with d := true } } := by decide +kernel
theorem witness_IncDecResults_ShiftResults :
    RmwMode.acc = .acc ∧ rmwMemMode (.abx 0xFFFF) = some (.abx 0xFFFF) := by decide +kernel
theorem witness_BitModifyResults_BitBranchResults_JmpResult :
    (Instr.rmb7 0xFF, 7) ∈ [(Instr.rmb0 0xFF, 0), (.rmb7 0xFF, 7)] ∧ (Instr.smb0 0, 0) ∈ [(Instr.smb0 0, 0)]
      ∧ (Instr.bbr7 0xFF 0x80, 7) ∈ [(Instr.bbr7 0xFF 0x80, 7)] ∧ (Instr.bbs0 0 0x7F, 0) ∈ [(Instr.bbs0 0 0x7F, 0)]
      ∧ (Instr.jmp (.iax 0xFFFF), 0xFFFF#16 + (0#8 ++ 0xFF#8)) ∈ [(Instr.jmp (.iax 0xFFFF), 0x00FE#16)] := by decide +kernel
theorem witness_SubroutineCallAndReturn :
    s0.ramMain.wf = true ∧ s0.ramAux.wf = true
      ∧ (∀ k ∈ [0#8, 1#8], (Bank.aux, 0x1FF) ≠ (s0.bankOf (stackAddr (s0.sp - k)) true, 256 + (s0.sp - k).toNat))
      ∧ ∀ sp : Byte, s0.bankOf (stackAddr sp) true = s0.bankOf (stackAddr sp) false :=
  ⟨rfl, rfl, by decide +kernel, fun _ => rfl⟩
theorem witness_ReturnFromInterrupt :
    0xC100 ≤ (0xC100#16).toNat ∧ (0xFFFE#16).toNat < 0xFFFF ∧ s0.ramMain.wf = true ∧ s0.ramAux.wf = true
      ∧ ∀ sp : Byte, s0.bankOf (stackAddr sp) true = s0.bankOf (stackAddr sp) false :=
  ⟨by decide, by decide, rfl, rfl, fun _ => rfl⟩
theorem witness_TrapOpcodeResult :
    lookupTrap ({ s0 with trapTable := [(0x00, 4), (0xFF, 7)] }).trapTable 0xFF = some 7
      ∧ lookupTrap s0.trapTable 0x00 = none ∧ s0.cfg.untrappedBrk = .nop2
      ∧ lookupTrap (State.created interruptParams).trapTable 0xFF = none ∧ (State.created interruptParams).cfg.untrappedBrk = .interrupt := by
  decide +kernel
theorem witness_UndefinedOpcodeResults :
    s0.cfg.undefPolicy = .docNop2 ∧ (State.created wdcParams).cfg.undefPolicy = .wdc
      ∧ 0xE2#8 ∈ [0x02#8, 0x22#8, 0x42#8, 0x62#8, 0x82#8, 0xC2#8, 0xE2#8] ∧ 0xF4#8 ∈ [0x54#8, 0xD4#8, 0xF4#8]
      ∧ 0xFC#8 ∈ [0xDC#8, 0xFC#8] ∧ (0x03#8).toNat % 16 = 3 ∧ (0xFB#8).toNat % 16 = 11 ∧ (0x07#8).toNat % 8 = 7
      ∧ (0xFF#8).toNat % 8 = 7 := by decide +kernel
theorem witness_RegisterAndFlagWriters :
    callsTrap .nop s0 = false ∧ softwareInterrupt .nop s0 = false
      ∧ [writesA, writesX, writesY, writesN, writesV, writesZ, writesC, writesSp, writesD, writesI].all (fun w => !w .nop) = true
      ∧ callsTrap (.brk 5) s0 = false ∧ softwareInterrupt (.brk 5) (State.created interruptParams) = true := by decide +kernel
theorem witness_StoringInstructionsOnly :
    callsTrap (.asl .acc) s0 = false ∧ storesMemory (.asl .acc) = false ∧ softwareInterrupt (.asl .acc) s0 = false := by decide +kernel

/-- An undefined opcode and an untrapped $00, which are logged, and a trapped $00, which is not. -/
theorem witness_FaultLogGrows :
    s0.nmiPending = false ∧ s0.irqLine = false ∧ undefinedOpcode s0.cfg (busRead 0x0300 (withRam [(0x300, 0x02)])).1 = true
      ∧ (busRead 0x0300 s0).1 = 0#8 ∧ lookupTrap s0.trapTable (busRead 0x0301 s0).1 = none ∧ s0.cfg.untrappedBrk = .nop2
      ∧ lookupTrap ({ s0 with trapTable := [(0x00, 4)] }).trapTable (busRead 0x0301 s0).1 = some 4 := by decide +kernel
/-- A step that answers a next state answers `stepped`. -/
theorem step_eq {s : State} (h : (match step s with | .next _ => true | _ => false) = true) : step s = .next (stepped s) := by
  unfold stepped
  cases hs : step s <;> simp_all

/-- Whether `run_cycles` answers a next state, which it then answers, decided. -/
theorem runCycles_next {n fuel : Nat} {s : State}
    (h : (match runCycles n fuel s with | .next _ => true | _ => false) = true) : ∃ t, runCycles n fuel s = .next t := by
  cases hs : runCycles n fuel s <;> simp_all

/-- S0 has the invariant. -/
theorem s0_inv : Inv s0 where
  params := by decide +kernel
  ram := ⟨rfl, rfl, rfl, rfl⟩
  audio := Audio.create_ok (by decide +kernel)
  disk := Disk.create_ok (by decide +kernel)
  video := ⟨rfl, by decide, List.length_replicate, fun row h => by
    rw [List.eq_of_mem_replicate h]; exact List.length_replicate⟩
  timers := rfl
  traps := List.Pairwise.nil

theorem witness_StepKeepsInvariant : ∃ t, Inv s0 ∧ step s0 = .next t :=
  ⟨stepped s0, s0_inv, step_eq (by decide +kernel)⟩
theorem witness_HostActionsKeepInvariant :
    ∃ t, Inv s0 ∧ hostStep (.mount 1 testMedium false (.reset ⟨true, 0x0F, 140, 51199⟩)) s0 = .next t :=
  ⟨{ s0 with disk := s0.disk.media (.mount 1 testMedium false (.reset ⟨true, 0x0F, 140, 51199⟩)) }, s0_inv, by
    simp only [hostStep, mountDrive]
    rw [if_neg (by decide +kernel), if_neg (by decide +kernel)]⟩
theorem witness_CreatedStatesHaveInvariant : testParams.accepted = true ∧ Reachable s0 :=
  ⟨by decide +kernel, .created testParams (by decide +kernel)⟩
/-- The loop goes on with `cycle` one below `n`, ends with it at `n`, and `run_cycles(1)` from S0 ends after one iteration. -/
theorem witness_RunCyclesEnds :
    0x40000000 ≤ 0x40000000 ∧ 1 ≤ s0.cfg.trapCycles.toNat ∧ s0.cfg.trapCycles.toNat ≤ 0x40000000
      ∧ (fun s : State => s.cycle.toNat < 7 ∧ s.instructionRun ≠ 0 ∧ step s = .next (stepped s)) { s0 with cycle := 6, instructionRun := 1 }
      ∧ 7 ≤ ({ s0 with cycle := 7 }).cycle.toNat
      ∧ ∃ t, runCycles 1 1 s0 = .next t :=
  ⟨by decide, by decide +kernel, by decide +kernel, ⟨by decide, by decide, step_eq (by decide +kernel)⟩, by decide +kernel,
    runCycles_next (by decide +kernel)⟩
/-- `remaining` of 0, one more than `k`, exactly `k`, and below 0. -/
theorem witness_TimerAndVblRules :
    s0.speed = .unit ∧ (⟨0, .vbl, ""⟩ : Timer).remaining = 0#64
      ∧ 0 < (⟨8, .vbl, ""⟩ : Timer).remaining.toInt - (7 : Nat) ∧ (⟨7, .vbl, ""⟩ : Timer).remaining.toInt - (7 : Nat) ≤ 0
      ∧ (⟨-1, .vbl, ""⟩ : Timer).remaining.toInt - (0 : Nat) ≤ 0 ∧ (⟨-1, .vbl, ""⟩ : Timer).remaining ≠ 0#64
      ∧ s0.video.vblPhase = .visible ∧ ({ s0.video with vblPhase := .blanking }).vblPhase = .blanking := by decide +kernel
/-- Clicks at no distance, at 127 and at exactly `SAMPLE_BUFFER_OFFSET` = 128 samples. -/
theorem witness_SpeakerClickRule :
    testParams.accepted = true ∧ audioOk testParams s0.audio
      ∧ 0 * samplesPerCycle testParams / 65536 ≤ s0.audio.currentSample
      ∧ s0.audio.currentSample + testParams.sampleBufferOffset ≤ 5925 * samplesPerCycle testParams / 65536
      ∧ s0.audio.currentSample < 5924 * samplesPerCycle testParams / 65536
      ∧ 5924 * samplesPerCycle testParams / 65536 < s0.audio.currentSample + testParams.sampleBufferOffset :=
  ⟨by decide +kernel, s0_inv.audio, by decide +kernel, by decide +kernel, by decide +kernel, by decide +kernel⟩
theorem witness_DrainAndSyncRules :
    audioOk s0.cfg s0.audio ∧ s0.audio.write = s0.audio.read
      ∧ ({ s0.audio with write := 1 }).write ≠ ({ s0.audio with write := 1 }).read
      ∧ s0.cfg.secondaryEnabled = false ∧ audioOk { s0.cfg with secondaryEnabled := true } s0.audio :=
  ⟨s0_inv.audio, rfl, by decide +kernel, rfl, s0_inv.audio⟩
theorem witness_SequencerStepRule :
    27 + 4 < testParams.bitTiming ∧ testParams.bitTiming ≤ 28 + 4 ∧ testDisk.q7 = false ∧ ({ testDisk with q7 := true }).q7 = true
      ∧ testDisk.motor = true ∧ testDisk.sel.medium ≠ none ∧ Disk.create.motor = false ∧ Disk.create.sel.medium = none := by
  decide +kernel
theorem witness_TrackBitWriteRead :
    (fun d : Drive => (d.currTrack.wf, decide (d.headPosition < d.bitCount), d.writeProtected)) { testDisk.drive0 with headPosition := 51199 }
        = (true, true, false)
      ∧ testDisk.drive0.bitCount ≤ ({ testDisk.drive0 with headPosition := 51200 }).headPosition
      ∧ 0 < testDisk.drive0.bitCount
      ∧ Drive.create.bitCount = 0 ∧ ({ testDisk.drive0 with writeProtected := true }).writeProtected = true := by decide +kernel
/-- At both ends of the head's range: target 6 from 0 and from 140 (V9). -/
theorem witness_StepperRule :
    0 ≤ 140 ∧ 140 ≤ 140 ∧ (0x08#8).toNat % 16 = 8 ∧ (8, 6) ∈ [(1, 0), (3, 1), (2, 2), (6, 3), (4, 4), (12, 5), (8, 6), (9, 7)]
      ∧ (6 + 8 - 0 % 8) % 8 ∈ [5, 6, 7] ∧ (6 + 8 - 140 % 8) % 8 ∈ [1, 2, 3] ∧ (6 + 8 - 2 % 8) % 8 ∈ [0, 4]
      ∧ (0x05#8).toNat % 16 ∈ [0, 5, 7, 10, 11, 13, 14, 15]
      ∧ testDisk.drive0.stepper.getLsbD (3 : Fin 4).val ≠ true ∧ testDisk.drive0.stepper.getLsbD (0 : Fin 4).val = false
      ∧ testParams.stepperRule = .specDefault ∧ (7#4).toNat < 8 ∧ (3 : Fin 4).val = (7#4).toNat / 2 := by decide +kernel
/-- A medium with track 0, track 1 and noise. -/
def mixedMedium : Medium :=
  ⟨(List.replicate 4 (.track 0)) ++ (List.replicate 4 (.track 1)) ++ List.replicate 152 .noise, List.replicate 35 ⟨51200, [], true⟩⟩
theorem witness_TrackChangeRule :
    mixedMedium.refAt 1 = mixedMedium.refAt 0 ∧ mixedMedium.refAt 4 ≠ mixedMedium.refAt 3 ∧ mixedMedium.refAt 3 = .track 0
      ∧ mixedMedium.refAt 8 = .noise ∧ mixedMedium.refAt 7 ≠ mixedMedium.refAt 8 ∧ (mixedMedium.trackAt 4).isSome = true := by
  decide +kernel
theorem witness_DiskIoAddresses :
    (0#4).toNat % 2 = 0 ∧ (15#4).toNat % 2 = 1 ∧ (7#4).toNat < 8 ∧ (3 : Fin 4).val = (7#4).toNat / 2 := by decide +kernel
theorem witness_MountAndEject :
    testMedium.accepted = true ∧ (⟨[], []⟩ : Medium).accepted = false ∧ (⟨false, 0, 140, 53247⟩ : HeadPlacement).qtrack ≤ 140
      ∧ (⟨false, 0, 140, 51199⟩ : HeadPlacement).bitPosition.val < testMedium.bitCountAt 140
      ∧ (s0.disk.drive 0).headPosition < testMedium.bitCountAt (s0.disk.drive 0).qtrack
      ∧ 140 < (⟨false, 0, 141, 0⟩ : HeadPlacement).qtrack
      ∧ mixedMedium.accepted = true ∧ mixedMedium.bitCountAt 140 = 0
      ∧ s0.disk.selected = 0 ∧ s0.disk.selected ≠ 1 ∧ (s0.disk.drive 1).medium = none
      ∧ ({ s0 with disk := testDisk }).disk.drive 0 = testDisk.drive0 ∧ testDisk.drive0.medium = some testMedium := by decide +kernel
theorem witness_RenderFrameShape :
    (23 < 24 ∨ (216 ≤ 23 ∧ 23 < 240)) ∧ (239 < 24 ∨ (216 ≤ 239 ∧ 239 < 240)) ∧ 319 < 320 ∧ 191 < 192 ∧ 15 < 16
      ∧ s0.video.monochrome = false ∧ ({ s0.video with monochrome := true }).monochrome = true := by decide +kernel
/-- An index of a colour palette, and one of a monochrome palette. -/
theorem witness_palettes :
    (∃ p, p < 6 ∧ ¬ (p = Config.greenPalette.val ∨ p = amberPalette)) ∧ ∃ p, p < 6 ∧ p = Config.greenPalette.val := by
  have h := Config.greenPalette.isLt
  refine ⟨?_, _, h, rfl⟩
  by_cases h0 : (Config.greenPalette.val + 1) % 6 = amberPalette
  · exact ⟨(Config.greenPalette.val + 2) % 6, by omega, by omega⟩
  · exact ⟨(Config.greenPalette.val + 1) % 6, by omega, by omega⟩
/-- Lines 159 and 160, at the edge of the mixed text rows. -/
theorem witness_VideoModesAndAddresses :
    [{ SoftSwitches.create with text := true }.lineMode 0, { SoftSwitches.create with mixed := true }.lineMode 160,
      { SoftSwitches.create with mixed := true, hires := true }.lineMode 159,
      { SoftSwitches.create with hires := true, dhires := true, col80 := true }.lineMode 191, SoftSwitches.create.lineMode 191]
      = [.text40, .text40, .hgr, .dhgr, .loRes]
    ∧ 23 < 24 ∧ 39 < 40 ∧ 191 < 192 := by decide +kernel
theorem witness_LinePixels :
    ({ s0.sw with text := true }).lineMode 191 = .text40 ∧ s0.sw.lineMode 191 = .loRes ∧ ({ s0.sw with hires := true }).lineMode 0 = .hgr
      ∧ ({ s0.sw with text := true, col80 := true }).lineMode 191 = .text80
      ∧ ({ s0.sw with hires := true, dhires := true, col80 := true }).lineMode 191 = .dhgr
      ∧ s0.video.monochrome = false ∧ ({ s0.video with monochrome := true }).monochrome = true
      ∧ 191 < 192 ∧ 319 < 320 ∧ (19 < 20 ∨ 300 ≤ 19) ∧ 20 ≤ 299 ∧ 299 < 300 := by decide +kernel
theorem witness_CreationState : Params.accepted testParams = true ∧ Params.accepted { testParams with speed := ⟨1, 1⟩ } = true := by
  decide +kernel
theorem witness_HostRequests :
    (0x7F#8).toNat < 0x80 ∧ trapsOk s0 ∧ 0xFF#8 ≠ 0x00#8 ∧ 0 < s0.timers.length :=
  ⟨by decide, s0_inv.traps, by decide, by decide⟩

end Sys2Proof.Tests
end

/-! Proofs of the family 10_state.md: every step keeps the invariant (R43 to R53), PC advances by the length of the encoding
(R34), and only the listed writers change a register or a flag (R31 to R36). -/

namespace Sys2Proof.Machine

/-! ## The instruction forms keep the invariant

A form keeps it when its effect on the registers does; everything else a form does is a bus access or a charge. -/

section InvariantOfForms

variable {s : State}

theorem setA_inv (h : Inv s) (v : Byte) : Inv (s.setA v) := h.congr rfl rfl rfl rfl rfl rfl rfl rfl rfl

theorem setX_inv (h : Inv s) (v : Byte) : Inv (s.setX v) := h.congr rfl rfl rfl rfl rfl rfl rfl rfl rfl

theorem setY_inv (h : Inv s) (v : Byte) : Inv (s.setY v) := h.congr rfl rfl rfl rfl rfl rfl rfl rfl rfl

theorem charge_inv (h : Inv s) (k : Nat) : Inv (s.charge k) := h.congr rfl rfl rfl rfl rfl rfl rfl rfl rfl

theorem logFault_inv (h : Inv s) (q : Addr) (op : Byte) : Inv (s.logFault q op) :=
  h.congr rfl rfl rfl rfl rfl rfl rfl rfl rfl

theorem readInstr_inv (h : Inv s) (m : Src) (extra : Nat) {f : Byte → State → State}
    (hf : ∀ v t, Inv t → Inv (f v t)) : Inv (readInstr m extra f s) :=
  retire_inv (hf _ _ (load_inv h m)) _ _

theorem storeInstr_inv (h : Inv s) (m : MemMode) (v : Byte) : Inv (storeInstr m v s) := by
  simp only [storeInstr, resolve_st]
  exact retire_inv (busWrite_inv h _ _) _ _

theorem modifyInstr_inv (h : Inv s) (m : RmwMode) (cycles : RmwMode → Bool → Nat) (f : Byte → Flags → Byte × Flags) :
    Inv (modifyInstr m cycles f s) := by
  cases hm : rmwMemMode m with
  | none =>
    simp only [modifyInstr, hm]
    exact retire_inv (setP_inv (setA_inv h _) _) _ _
  | some mm =>
    rw [modifyInstr_mem s hm]
    exact retire_inv (setP_inv (busWrite_inv (busRead_inv h _) _ _) _) _ _

theorem testInstr_inv (h : Inv s) (m : TestMode) (g : Byte → Byte → Byte) : Inv (testInstr m g s) := by
  simp only [testInstr, resolve_st]
  exact retire_inv (setP_inv (busWrite_inv (busRead_inv h _) _ _) _) _ _

theorem bitModifyInstr_inv (h : Inv s) (z : Byte) (g : Byte → Byte) : Inv (bitModifyInstr z g s) :=
  retire_inv (busWrite_inv (busRead_inv h _) _ _) _ _

theorem branch_inv (h : Inv s) (taken : Bool) (q : Addr) (r : Byte) (k : Nat) : Inv (branch taken q r k s) := by
  cases taken
  · exact retire_inv h _ _
  · exact retire_inv h _ _

theorem bitBranchInstr_inv (h : Inv s) (n : Nat) (want : Bool) (z r : Byte) : Inv (bitBranchInstr n want z r s) :=
  branch_inv (busRead_inv h _) _ _ _ _

theorem impliedInstr_inv (k : Nat) {f : State → State} (hf : Inv (f s)) : Inv (impliedInstr k f s) := retire_inv hf _ _

theorem returnFromInterrupt_inv (h : Inv s) : Inv (returnFromInterrupt s) :=
  setPc_inv (pull_inv (pull_inv (setP_inv (pull_inv h) _))) _

theorem wdcAccess_inv (h : Inv s) (op : Byte) (operand : UndefOperand) : Inv (wdcAccess op operand s) := by
  unfold wdcAccess
  cases wdcForm op with
  | imp | imm => exact h
  | zp | zpx | abs => exact busRead_inv h _

end InvariantOfForms

/-! ## Every instruction and every step keep the invariant -/

theorem execJmp_inv {s : State} (h : Inv s) (m : JmpMode) : ∃ t, execJmp m s = .next t ∧ Inv t := by
  cases m with
  | abs w => exact ⟨_, rfl, retire_inv h _ _⟩
  | ind w | iax w => exact ⟨_, rfl, retire_inv (read16_inv h _) _ _⟩

/-- Whichever of its three meanings the trap opcode has (45_control.md R366). -/
theorem execBrk_inv {s : State} (h : Inv s) (t : Byte) : ∃ u, execBrk t s = .next u ∧ Inv u := by
  unfold execBrk
  cases lookupTrap s.trapTable t with
  | some handler => exact ⟨_, rfl, charge_inv (callTrap_inv (setPc_inv h _) _) _⟩
  | none =>
    cases s.cfg.untrappedBrk with
    | nop2 => exact ⟨_, rfl, retire_inv (logFault_inv h _ _) _ _⟩
    | interrupt => exact ⟨_, rfl, charge_inv (enter_inv (setPc_inv h _) _ _) _⟩

theorem execUndef_inv {s : State} (h : Inv s) (op : Byte) (operand : UndefOperand) :
    ∃ t, execUndef op operand s = .next t ∧ Inv t := by
  unfold execUndef
  cases s.cfg.undefPolicy with
  | docNop2 => exact ⟨_, rfl, retire_inv (logFault_inv h _ _) _ _⟩
  | wdc => exact ⟨_, rfl, retire_inv (logFault_inv (wdcAccess_inv h _ _) _ _) _ _⟩

/-- Every instruction answers a next state, and from a state with the invariant it is one with the invariant. -/
theorem exec_inv {s : State} (h : Inv s) (i : Instr) : ∃ t, exec i s = .next t ∧ Inv t := by
  cases i with
  | lda m | adc m | sbc m | and m | ora m | eor m =>
    exact ⟨_, rfl, readInstr_inv h _ _ fun _ _ ht => setP_inv (setA_inv ht _) _⟩
  | ldx m => exact ⟨_, rfl, readInstr_inv h _ _ fun _ _ ht => setP_inv (setX_inv ht _) _⟩
  | ldy m => exact ⟨_, rfl, readInstr_inv h _ _ fun _ _ ht => setP_inv (setY_inv ht _) _⟩
  | cmp m | cpx m | cpy m | bit m => exact ⟨_, rfl, readInstr_inv h _ _ fun _ _ ht => setP_inv ht _⟩
  | sta m | stx m | sty m | stz m => exact ⟨_, rfl, storeInstr_inv h _ _⟩
  | inc m | dec m | asl m | lsr m | rol m | ror m => exact ⟨_, rfl, modifyInstr_inv h _ _ _⟩
  | tsb m | trb m => exact ⟨_, rfl, testInstr_inv h _ _⟩
  | rmb0 z | rmb1 z | rmb2 z | rmb3 z | rmb4 z | rmb5 z | rmb6 z | rmb7 z
  | smb0 z | smb1 z | smb2 z | smb3 z | smb4 z | smb5 z | smb6 z | smb7 z => exact ⟨_, rfl, bitModifyInstr_inv h _ _⟩
  | bbr0 z r | bbr1 z r | bbr2 z r | bbr3 z r | bbr4 z r | bbr5 z r | bbr6 z r | bbr7 z r
  | bbs0 z r | bbs1 z r | bbs2 z r | bbs3 z r | bbs4 z r | bbs5 z r | bbs6 z r | bbs7 z r =>
    exact ⟨_, rfl, bitBranchInstr_inv h _ _ _ _⟩
  | bpl r | bmi r | bvc r | bvs r | bcc r | bcs r | bne r | beq r | bra r => exact ⟨_, rfl, branch_inv h _ _ _ _⟩
  | txa | tya => exact ⟨_, rfl, impliedInstr_inv _ (setP_inv (setA_inv h _) _)⟩
  | tax | tsx | inx | dex => exact ⟨_, rfl, impliedInstr_inv _ (setP_inv (setX_inv h _) _)⟩
  | tay | iny | dey => exact ⟨_, rfl, impliedInstr_inv _ (setP_inv (setY_inv h _) _)⟩
  | txs => exact ⟨_, rfl, impliedInstr_inv _ (setSp_inv h _)⟩
  | pha | php | phx | phy => exact ⟨_, rfl, impliedInstr_inv _ (push_inv h _)⟩
  | pla => exact ⟨_, rfl, impliedInstr_inv _ (setP_inv (setA_inv (pull_inv h) _) _)⟩
  | plx => exact ⟨_, rfl, impliedInstr_inv _ (setP_inv (setX_inv (pull_inv h) _) _)⟩
  | ply => exact ⟨_, rfl, impliedInstr_inv _ (setP_inv (setY_inv (pull_inv h) _) _)⟩
  | plp => exact ⟨_, rfl, impliedInstr_inv _ (setP_inv (pull_inv h) _)⟩
  | clc | sec | cli | sei | cld | sed | clv => exact ⟨_, rfl, impliedInstr_inv _ (setP_inv h _)⟩
  | nop => exact ⟨_, rfl, impliedInstr_inv _ h⟩
  | jmp m => exact execJmp_inv h m
  | jsr w => exact ⟨_, rfl, retire_inv (push_inv (push_inv h _) _) _ _⟩
  | rts => exact ⟨_, rfl, retire_inv (pull_inv (pull_inv h)) _ _⟩
  | rti => exact ⟨_, rfl, charge_inv (returnFromInterrupt_inv h) _⟩
  | brk t => exact execBrk_inv h t
  | undef op operand => exact execUndef_inv h op operand

/-- The interrupt check with whichever branch it takes (60_exceptions.md R410). -/
theorem cpuStep_inv {s : State} (h : Inv s) : ∃ t, cpuStep s = .next t ∧ Inv t := by
  unfold cpuStep
  split
  · have hs : Inv { s with nmiPending := false } := h.congr rfl rfl rfl rfl rfl rfl rfl rfl rfl
    exact ⟨_, rfl, charge_inv (enter_inv hs _ _) _⟩
  · split
    · exact ⟨_, rfl, charge_inv (enter_inv h _ _) _⟩
    · exact exec_inv (fetch_inv h) _

theorem deviceStep_inv {s : State} (h : Inv s) (k : Nat) : Inv (deviceStep k s) := timerStep_inv (diskStep_inv h k) k

/-- A step is what the processor does, then the devices clocked by its cost (61_timers.md R452). -/
theorem step_inv {s : State} (h : Inv s) : ∃ t, step s = .next t ∧ Inv t := by
  obtain ⟨u, hu, hi⟩ := cpuStep_inv h
  exact ⟨_, by rw [step, iteration, hu, afterCpu], deviceStep_inv hi _⟩

/-- Settles O42: the processor's part of a step keeps the invariant by cases of the instruction, and clocking the devices
keeps it. -/
theorem stepKeepsInvariant : Obligations.StepKeepsInvariant := by
  intro s t hs hst
  obtain ⟨u, hu, hi⟩ := step_inv hs
  rw [hu] at hst
  cases hst
  exact hi

/-! ## The length of an encoding (30_encoding.md R131)

An operand has an opcode exactly when its mode is one the instruction has, and the length the meanings add to PC is the
number of bytes of the encoding. -/

section LengthOfEncoding

theorem aluOpcode_isSome (izx zp imm abs izy izp zpx aby abx : Byte) (m : Src) :
    (aluOpcode izx zp imm abs izy izp zpx aby abx m).isSome = m.isAlu := by
  rcases m with _ | ⟨_ | _⟩ <;> rfl

theorem ldxOpcode_isSome (m : Src) : (ldxOpcode m).isSome = m.isLdx := by rcases m with _ | ⟨_ | _⟩ <;> rfl

theorem ldyOpcode_isSome (imm zp zpx abs abx : Byte) (m : Src) :
    (ldyOpcode imm zp zpx abs abx m).isSome = m.isLdy := by
  rcases m with _ | ⟨_ | _⟩ <;> rfl

theorem cpxOpcode_isSome (imm zp abs : Byte) (m : Src) : (cpxOpcode imm zp abs m).isSome = m.isCpx := by
  rcases m with _ | ⟨_ | _⟩ <;> rfl

theorem staOpcode_isSome (m : MemMode) : (staOpcode m).isSome = m.isSta := by cases m <;> rfl

theorem stxOpcode_isSome (m : MemMode) : (stxOpcode m).isSome = m.isStx := by cases m <;> rfl

theorem styOpcode_isSome (m : MemMode) : (styOpcode m).isSome = m.isSty := by cases m <;> rfl

theorem stzOpcode_isSome (m : MemMode) : (stzOpcode m).isSome = m.isStz := by cases m <;> rfl

/-- The instructions with an opcode are those in a mode they have. -/
theorem opcodeOf_isSome (i : Instr) : (opcodeOf i).isSome = i.modeOk := by
  cases i with
  | lda m | adc m | sbc m | cmp m | and m | ora m | eor m => exact aluOpcode_isSome _ _ _ _ _ _ _ _ _ m
  | ldx m => exact ldxOpcode_isSome m
  | ldy m | bit m => exact ldyOpcode_isSome _ _ _ _ _ m
  | cpx m | cpy m => exact cpxOpcode_isSome _ _ _ m
  | sta m => exact staOpcode_isSome m
  | stx m => exact stxOpcode_isSome m
  | sty m => exact styOpcode_isSome m
  | stz m => exact stzOpcode_isSome m
  | _ => rfl

/-- An encoding is the opcode byte and the operand bytes. -/
theorem encode_length {i : Instr} (h : i.modeOk = true) : (encode i).length = (operandBytes i).length + 1 := by
  obtain ⟨op, hop⟩ := Option.isSome_iff_exists.1 ((opcodeOf_isSome i).trans h)
  rw [encode, hop, List.length_cons]

theorem modeLength_eq (m : MemMode) : modeLength m = BitVec.ofNat 16 (m.bytes.length + 1) := by cases m <;> rfl

theorem srcLength_eq (m : Src) : srcLength m = BitVec.ofNat 16 (m.bytes.length + 1) := by
  cases m with
  | imm n => rfl
  | mem mm => exact modeLength_eq mm

theorem rmwLength_eq (m : RmwMode) : rmwLength m = BitVec.ofNat 16 (m.bytes.length + 1) := by cases m <;> rfl

theorem testLength_eq (m : TestMode) : testLength m = BitVec.ofNat 16 (m.bytes.length + 1) := by cases m <;> rfl

/-- The operand of a well-formed undefined opcode is the one its policy gives it for some operand bytes (R143). -/
theorem exists_undefOperand {c : Params} {op : Byte} {operand : UndefOperand}
    (h : (Instr.undef op operand).undefOk c = true) : ∃ b1 b2, undefOperand c op b1 b2 = operand := by
  simp only [Instr.undefOk, Bool.and_eq_true] at h
  cases operand with
  | none => exact ⟨0, 0, eq_of_beq h.2⟩
  | one b1 => exact ⟨b1, 0, eq_of_beq h.2⟩
  | two b1 b2 => exact ⟨b1, b2, eq_of_beq h.2⟩

/-- Under `DocNop2` an undefined opcode has one operand byte (R143). -/
theorem undefOperand_length_docNop2 {c : Params} (hp : c.undefPolicy = .docNop2) (op b1 b2 : Byte) :
    (undefOperand c op b1 b2).bytes.length = 1 := by
  rw [undefOperand, hp]
  rfl

/-- Under `Wdc` it has as many as its form (R143). -/
theorem wdcLength_eq {c : Params} (hp : c.undefPolicy = .wdc) (op b1 b2 : Byte) :
    wdcLength op = BitVec.ofNat 16 ((undefOperand c op b1 b2).bytes.length + 1) := by
  rw [undefOperand, hp, wdcLength]
  cases wdcForm op <;> rfl

end LengthOfEncoding

/-! ## Where an instruction leaves PC -/

theorem readInstr_pc (m : Src) (extra : Nat) (f : Byte → State → State) (s : State) :
    (readInstr m extra f s).pc = s.pc + BitVec.ofNat 16 (m.bytes.length + 1) := by
  rw [readInstr, State.retire_pc, srcLength_eq]

theorem storeInstr_pc (m : MemMode) (v : Byte) (s : State) :
    (storeInstr m v s).pc = s.pc + BitVec.ofNat 16 (m.bytes.length + 1) := by
  rw [storeInstr, State.retire_pc, modeLength_eq]

theorem modifyInstr_pc (m : RmwMode) (cycles : RmwMode → Bool → Nat) (f : Byte → Flags → Byte × Flags) (s : State) :
    (modifyInstr m cycles f s).pc = s.pc + BitVec.ofNat 16 (m.bytes.length + 1) := by
  rw [← rmwLength_eq]
  cases hm : rmwMemMode m with
  | none => simp [modifyInstr, hm]
  | some mm => simp [modifyInstr_mem s hm]

theorem testInstr_pc (m : TestMode) (g : Byte → Byte → Byte) (s : State) :
    (testInstr m g s).pc = s.pc + BitVec.ofNat 16 (m.bytes.length + 1) := by
  rw [testInstr, State.retire_pc, testLength_eq]

theorem execUndef_pc {s : State} {op : Byte} {operand : UndefOperand}
    (h : (Instr.undef op operand).undefOk s.cfg = true) :
    ∃ t, execUndef op operand s = .next t ∧ t.pc = s.pc + BitVec.ofNat 16 (operand.bytes.length + 1) := by
  obtain ⟨b1, b2, rfl⟩ := exists_undefOperand h
  unfold execUndef
  cases hp : s.cfg.undefPolicy with
  | docNop2 => exact ⟨_, rfl, by rw [undefOperand_length_docNop2 hp]; rfl⟩
  | wdc => exact ⟨_, rfl, by rw [← wdcLength_eq hp]; rfl⟩

/-- A well-formed instruction that does not assign PC ends after its operand bytes (10_state.md R34). -/
theorem exec_pc_of_not_assignsPc {i : Instr} {s : State} (hu : i.undefOk s.cfg = true) (ha : assignsPc i = false) :
    ∃ t, exec i s = .next t ∧ t.pc = s.pc + BitVec.ofNat 16 ((operandBytes i).length + 1) := by
  cases i with
  | lda m | ldx m | ldy m | adc m | sbc m | cmp m | cpx m | cpy m | and m | ora m | eor m | bit m =>
    exact ⟨_, rfl, readInstr_pc _ _ _ _⟩
  | sta m | stx m | sty m | stz m => exact ⟨_, rfl, storeInstr_pc _ _ _⟩
  | inc m | dec m | asl m | lsr m | rol m | ror m => exact ⟨_, rfl, modifyInstr_pc _ _ _ _⟩
  | tsb m | trb m => exact ⟨_, rfl, testInstr_pc _ _ _⟩
  | undef op operand => exact execUndef_pc hu
  | bpl | bmi | bvc | bvs | bcc | bcs | bne | beq | bra | jmp | jsr | rts | rti | brk
  | bbr0 | bbr1 | bbr2 | bbr3 | bbr4 | bbr5 | bbr6 | bbr7 | bbs0 | bbs1 | bbs2 | bbs3 | bbs4 | bbs5 | bbs6 | bbs7 =>
    exact absurd ha nofun
  | _ => exact ⟨_, rfl, rfl⟩

/-- Settles O5: every form that does not assign PC adds the length of its operand and the opcode byte to it, and that is
the length of the encoding. -/
theorem sequentialPcAdvance : Obligations.SequentialPcAdvance := by
  intro i s hw ha
  simp only [Instr.wellFormed, Bool.and_eq_true] at hw
  obtain ⟨⟨hm, -⟩, hu⟩ := hw
  rw [encode_length hm]
  exact exec_pc_of_not_assignsPc hu ha

/-! ## Which registers and flags an instruction writes (10_state.md R31 to R36)

`RegsKept i s t`: of the registers and flags of `s`, those that `i` does not write are the same in `t`. Each operation on
registers keeps this when `i` is one of the writers of what it sets, so that a meaning is followed operation by operation. -/

/-- The flags that `i` does not write are the same; `soft` tells the software interrupt of $00, which writes D and I too. -/
structure FlagsKept (i : Instr) (soft : Bool) (f g : Flags) : Prop where
  n : writesN i = false → g.n = f.n
  v : writesV i = false → g.v = f.v
  z : writesZ i = false → g.z = f.z
  c : writesC i = false → g.c = f.c
  d : soft = false → writesD i = false → g.d = f.d
  i : soft = false → writesI i = false → g.i = f.i

/-- The registers and flags that `i`, run in `s`, does not write are the same in `t`. -/
structure RegsKept (i : Instr) (s t : State) : Prop where
  a     : writesA i = false → t.a = s.a
  x     : writesX i = false → t.x = s.x
  y     : writesY i = false → t.y = s.y
  sp    : softwareInterrupt i s = false → writesSp i = false → t.sp = s.sp
  flags : FlagsKept i (softwareInterrupt i s) s.p t.p

/-- All N writers write Z (R36). -/
theorem writesZ_of_writesN {i : Instr} (h : writesN i = true) : writesZ i = true := by
  unfold writesZ
  split
  · rfl
  · rfl
  · rfl
  · exact h

section Flags

variable {i : Instr} {soft : Bool} {f g : Flags}

theorem FlagsKept.refl (f : Flags) : FlagsKept i soft f f :=
  ⟨fun _ => rfl, fun _ => rfl, fun _ => rfl, fun _ => rfl, fun _ _ => rfl, fun _ _ => rfl⟩

theorem FlagsKept.setN (h : FlagsKept i soft f g) (hn : writesN i = true) (b : Bool) :
    FlagsKept i soft f { g with n := b } :=
  { h with n := by simp [hn] }

theorem FlagsKept.setV (h : FlagsKept i soft f g) (hv : writesV i = true) (b : Bool) :
    FlagsKept i soft f { g with v := b } :=
  { h with v := by simp [hv] }

theorem FlagsKept.setZ (h : FlagsKept i soft f g) (hz : writesZ i = true) (b : Bool) :
    FlagsKept i soft f { g with z := b } :=
  { h with z := by simp [hz] }

theorem FlagsKept.setC (h : FlagsKept i soft f g) (hc : writesC i = true) (b : Bool) :
    FlagsKept i soft f { g with c := b } :=
  { h with c := by simp [hc] }

theorem FlagsKept.setD (h : FlagsKept i soft f g) (hd : writesD i = true) (b : Bool) :
    FlagsKept i soft f { g with d := b } :=
  { h with d := by simp [hd] }

theorem FlagsKept.setI (h : FlagsKept i soft f g) (hi : writesI i = true) (b : Bool) :
    FlagsKept i soft f { g with i := b } :=
  { h with i := by simp [hi] }

theorem FlagsKept.setNZ (h : FlagsKept i soft f g) (hn : writesN i = true) (v : Byte) :
    FlagsKept i soft f (setNZ v g) :=
  { h with n := by simp [hn], z := by simp [writesZ_of_writesN hn] }

theorem FlagsKept.sumFlags (h : FlagsKept i soft f g) (hn : writesN i = true) (hv : writesV i = true)
    (hc : writesC i = true) (r : Sum) : FlagsKept i soft f (sumFlags r g) :=
  { h.setNZ hn r.value with v := by simp [hv], c := by simp [hc] }

theorem FlagsKept.compareFlags (h : FlagsKept i soft f g) (hn : writesN i = true) (hc : writesC i = true) (r m : Byte) :
    FlagsKept i soft f (compareFlags r m g) :=
  { h.setNZ hn (r - m) with z := by simp [writesZ_of_writesN hn], c := by simp [hc] }

/-- BIT writes Z, and N and V in its memory forms only (43_logic_shift.md R283). -/
theorem FlagsKept.bitFlags {m : Src} (h : FlagsKept (.bit m) soft f g) (a v : Byte) :
    FlagsKept (.bit m) soft f (bitFlags m a v g) := by
  cases m with
  | imm n => exact h.setZ rfl _
  | mem mm => exact ((h.setZ rfl _).setN rfl _).setV rfl _

/-- PLP and RTI write every flag, so nothing is left to keep. -/
theorem FlagsKept.of_writes_all (hn : writesN i = true) (hv : writesV i = true) (hc : writesC i = true)
    (hd : writesD i = true) (hi : writesI i = true) : FlagsKept i soft f g := by
  constructor <;> simp [hn, hv, writesZ_of_writesN hn, hc, hd, hi]

end Flags

section Registers

variable {i : Instr} {s t : State}

theorem RegsKept.refl (s : State) : RegsKept i s s :=
  ⟨fun _ => rfl, fun _ => rfl, fun _ => rfl, fun _ _ => rfl, .refl s.p⟩

/-- It looks at the registers only. -/
theorem RegsKept.congr {u : State} (h : RegsKept i s t) (hr : u.regs = t.regs) : RegsKept i s u := by
  simp only [State.regs, Regs.mk.injEq] at hr
  obtain ⟨ha, hx, hy, hsp, hp⟩ := hr
  exact ⟨ha ▸ h.a, hx ▸ h.x, hy ▸ h.y, hsp ▸ h.sp, hp ▸ h.flags⟩

/-- A state with the same registers keeps them all. -/
theorem RegsKept.of_regs (h : t.regs = s.regs) : RegsKept i s t := (RegsKept.refl s).congr h

theorem RegsKept.setA (h : RegsKept i s t) (ha : writesA i = true) (v : Byte) : RegsKept i s (t.setA v) :=
  { h with a := by simp [ha] }

theorem RegsKept.setX (h : RegsKept i s t) (hx : writesX i = true) (v : Byte) : RegsKept i s (t.setX v) :=
  { h with x := by simp [hx] }

theorem RegsKept.setY (h : RegsKept i s t) (hy : writesY i = true) (v : Byte) : RegsKept i s (t.setY v) :=
  { h with y := by simp [hy] }

theorem RegsKept.setSp (h : RegsKept i s t) (hsp : writesSp i = true) (v : Byte) : RegsKept i s (t.setSp v) :=
  { h with sp := by simp [hsp] }

theorem RegsKept.setP (h : RegsKept i s t) {f : Flags} (hf : FlagsKept i (softwareInterrupt i s) s.p f) :
    RegsKept i s (t.setP f) :=
  { h with flags := hf }

theorem RegsKept.charge (h : RegsKept i s t) (k : Nat) : RegsKept i s (t.charge k) := h.congr rfl

theorem RegsKept.retire (h : RegsKept i s t) (q : Addr) (k : Nat) : RegsKept i s (t.retire q k) := h.congr rfl

theorem RegsKept.push (h : RegsKept i s t) (hsp : writesSp i = true) (v : Byte) : RegsKept i s (push v t) :=
  (h.setSp hsp (t.sp - 1)).congr (by simp [State.regs])

theorem RegsKept.pull (h : RegsKept i s t) (hsp : writesSp i = true) : RegsKept i s (pull t).2 := by
  rw [pull_state]
  exact h.setSp hsp _

theorem RegsKept.returnFromInterrupt (h : RegsKept .rti s t) : RegsKept .rti s (returnFromInterrupt t) :=
  have hp : RegsKept .rti s _ := (h.pull rfl).setP (.of_writes_all rfl rfl rfl rfl rfl)
  ((hp.pull rfl).pull rfl).congr rfl

end Registers

/-! ### The instruction forms -/

section Forms

variable {i : Instr} {s : State}

/-- A reading instruction whose effect on the registers writes only what `i` writes. -/
theorem readInstr_regsKept (m : Src) (extra : Nat) {f : Byte → State → State}
    (hf : ∀ v t, RegsKept i s t → RegsKept i s (f v t)) : RegsKept i s (readInstr m extra f s) :=
  (hf _ _ (.of_regs (by simp [State.regs]))).retire _ _

theorem storeInstr_regsKept (m : MemMode) (v : Byte) : RegsKept i s (storeInstr m v s) :=
  .of_regs (storeInstr_frame s m v).regs

/-- A read-modify-write instruction writes the flags of its function, and A in the accumulator form. -/
theorem modifyInstr_regsKept {m : RmwMode} (cycles : RmwMode → Bool → Nat) {g : Byte → Flags → Byte × Flags}
    (ha : m = .acc → writesA i = true) (hg : ∀ v, FlagsKept i (softwareInterrupt i s) s.p (g v s.p).2) :
    RegsKept i s (modifyInstr m cycles g s) := by
  cases m with
  | acc => exact (((RegsKept.refl s).setA (ha rfl) _).setP (hg _)).retire _ _
  | zp z | zpx z | abs w | abx w =>
    rw [modifyInstr_mem s rfl]
    exact (RegsKept.setP (.of_regs (by simp [State.regs])) (hg _)).retire _ _

/-- TSB and TRB write Z only (43_logic_shift.md R288, R289). -/
theorem testInstr_regsKept (hz : writesZ i = true) (m : TestMode) (g : Byte → Byte → Byte) :
    RegsKept i s (testInstr m g s) :=
  (RegsKept.setP (.of_regs (by simp [State.regs])) ((FlagsKept.refl s.p).setZ hz _)).retire _ _

theorem bitModifyInstr_regsKept (z : Byte) (g : Byte → Byte) : RegsKept i s (bitModifyInstr z g s) :=
  .of_regs (by simp [bitModifyInstr, State.regs])

theorem branchInstr_regsKept (taken : Bool) (r : Byte) : RegsKept i s (branchInstr taken r s) :=
  .of_regs (branch_frame s _ _ _ _).1

theorem bitBranchInstr_regsKept (n : Nat) (want : Bool) (z r : Byte) : RegsKept i s (bitBranchInstr n want z r s) :=
  .of_regs ((branch_frame _ _ _ _ _).1.trans (by simp [State.regs]))

theorem impliedInstr_regsKept (k : Nat) {f : State → State} (hf : RegsKept i s (f s)) :
    RegsKept i s (impliedInstr k f s) :=
  hf.retire _ _

end Forms

/-! ### Every instruction -/

theorem execJmp_regsKept (m : JmpMode) (s : State) : ∃ t, execJmp m s = .next t ∧ RegsKept (.jmp m) s t := by
  cases m with
  | abs w => exact ⟨_, rfl, .of_regs rfl⟩
  | ind w | iax w => exact ⟨_, rfl, .of_regs (by simp [State.regs])⟩

/-- Without a callback $00 is a NOP or the software interrupt, which writes S, D and I (45_control.md R366). -/
theorem execBrk_regsKept {t : Byte} {s : State} (h : callsTrap (.brk t) s = false) :
    ∃ u, execBrk t s = .next u ∧ RegsKept (.brk t) s u := by
  have ht : lookupTrap s.trapTable t = none := by simpa [callsTrap] using h
  unfold execBrk
  rw [ht]
  cases hm : s.cfg.untrappedBrk with
  | nop2 => exact ⟨_, rfl, .of_regs rfl⟩
  | interrupt =>
    have hs : softwareInterrupt (.brk t) s = true := by simp [softwareInterrupt, hm]
    refine ⟨_, rfl, {
      a := ?_, x := ?_, y := ?_, sp := by simp [hs]
      flags := { n := ?_, v := ?_, z := ?_, c := ?_, d := by simp [hs], i := by simp [hs] } }⟩ <;> simp [enterInterrupt]

theorem execUndef_regsKept (op : Byte) (operand : UndefOperand) (s : State) :
    ∃ t, execUndef op operand s = .next t ∧ RegsKept (.undef op operand) s t := by
  have hacc : (wdcAccess op operand s).regs = s.regs := by
    unfold wdcAccess
    cases wdcForm op <;> simp [State.regs]
  unfold execUndef
  cases s.cfg.undefPolicy with
  | docNop2 => exact ⟨_, rfl, .of_regs rfl⟩
  | wdc => exact ⟨_, rfl, .of_regs hacc⟩

/-- Every instruction that calls no trap callback keeps what it is not a writer of. -/
theorem exec_regsKept (i : Instr) (s : State) (h : callsTrap i s = false) : ∃ t, exec i s = .next t ∧ RegsKept i s t := by
  have h0 {j : Instr} : RegsKept j s s := .refl s
  have f0 {j : Instr} {soft : Bool} : FlagsKept j soft s.p s.p := .refl s.p
  cases i with
  | lda m | and m | ora m | eor m =>
    exact ⟨_, rfl, readInstr_regsKept _ _ fun _ _ ht => (ht.setA rfl _).setP (ht.flags.setNZ rfl _)⟩
  | ldx m => exact ⟨_, rfl, readInstr_regsKept _ _ fun _ _ ht => (ht.setX rfl _).setP (ht.flags.setNZ rfl _)⟩
  | ldy m => exact ⟨_, rfl, readInstr_regsKept _ _ fun _ _ ht => (ht.setY rfl _).setP (ht.flags.setNZ rfl _)⟩
  | adc m | sbc m =>
    exact ⟨_, rfl, readInstr_regsKept _ _ fun _ _ ht => (ht.setA rfl _).setP (ht.flags.sumFlags rfl rfl rfl _)⟩
  | cmp m | cpx m | cpy m =>
    exact ⟨_, rfl, readInstr_regsKept _ _ fun _ _ ht => ht.setP (ht.flags.compareFlags rfl rfl _ _)⟩
  | bit m => exact ⟨_, rfl, readInstr_regsKept _ _ fun _ _ ht => ht.setP (ht.flags.bitFlags _ _)⟩
  | sta m | stx m | sty m | stz m => exact ⟨_, rfl, storeInstr_regsKept _ _⟩
  | inc m | dec m => exact ⟨_, rfl, modifyInstr_regsKept _ (fun hm => hm ▸ rfl) fun _ => f0.setNZ rfl _⟩
  | asl m | lsr m | rol m | ror m =>
    exact ⟨_, rfl, modifyInstr_regsKept _ (fun hm => hm ▸ rfl) fun _ => (f0.setC rfl _).setNZ rfl _⟩
  | tsb m | trb m => exact ⟨_, rfl, testInstr_regsKept rfl _ _⟩
  | rmb0 z | rmb1 z | rmb2 z | rmb3 z | rmb4 z | rmb5 z | rmb6 z | rmb7 z
  | smb0 z | smb1 z | smb2 z | smb3 z | smb4 z | smb5 z | smb6 z | smb7 z => exact ⟨_, rfl, bitModifyInstr_regsKept _ _⟩
  | bbr0 z r | bbr1 z r | bbr2 z r | bbr3 z r | bbr4 z r | bbr5 z r | bbr6 z r | bbr7 z r
  | bbs0 z r | bbs1 z r | bbs2 z r | bbs3 z r | bbs4 z r | bbs5 z r | bbs6 z r | bbs7 z r =>
    exact ⟨_, rfl, bitBranchInstr_regsKept _ _ _ _⟩
  | bpl r | bmi r | bvc r | bvs r | bcc r | bcs r | bne r | beq r | bra r => exact ⟨_, rfl, branchInstr_regsKept _ _⟩
  | txa | tya => exact ⟨_, rfl, impliedInstr_regsKept _ ((h0.setA rfl _).setP (f0.setNZ rfl _))⟩
  | tax | tsx | inx | dex => exact ⟨_, rfl, impliedInstr_regsKept _ ((h0.setX rfl _).setP (f0.setNZ rfl _))⟩
  | tay | iny | dey => exact ⟨_, rfl, impliedInstr_regsKept _ ((h0.setY rfl _).setP (f0.setNZ rfl _))⟩
  | txs => exact ⟨_, rfl, impliedInstr_regsKept _ (h0.setSp rfl _)⟩
  | pha | php | phx | phy => exact ⟨_, rfl, impliedInstr_regsKept _ (h0.push rfl _)⟩
  | pla => exact ⟨_, rfl, impliedInstr_regsKept _ (((h0.pull rfl).setA rfl _).setP (f0.setNZ rfl _))⟩
  | plx => exact ⟨_, rfl, impliedInstr_regsKept _ (((h0.pull rfl).setX rfl _).setP (f0.setNZ rfl _))⟩
  | ply => exact ⟨_, rfl, impliedInstr_regsKept _ (((h0.pull rfl).setY rfl _).setP (f0.setNZ rfl _))⟩
  | plp => exact ⟨_, rfl, impliedInstr_regsKept _ ((h0.pull rfl).setP (.of_writes_all rfl rfl rfl rfl rfl))⟩
  | clc | sec => exact ⟨_, rfl, impliedInstr_regsKept _ (h0.setP (f0.setC rfl _))⟩
  | cli | sei => exact ⟨_, rfl, impliedInstr_regsKept _ (h0.setP (f0.setI rfl _))⟩
  | cld | sed => exact ⟨_, rfl, impliedInstr_regsKept _ (h0.setP (f0.setD rfl _))⟩
  | clv => exact ⟨_, rfl, impliedInstr_regsKept _ (h0.setP (f0.setV rfl _))⟩
  | nop => exact ⟨_, rfl, impliedInstr_regsKept _ h0⟩
  | jmp m => exact execJmp_regsKept m s
  | jsr w => exact ⟨_, rfl, ((h0.push rfl _).push rfl _).retire _ _⟩
  | rts => exact ⟨_, rfl, ((h0.pull rfl).pull rfl).retire _ _⟩
  | rti => exact ⟨_, rfl, h0.returnFromInterrupt.charge _⟩
  | brk t => exact execBrk_regsKept h
  | undef op operand => exact execUndef_regsKept op operand s

/-- Settles O39: by cases of the instruction, each of its operations on registers being one it is listed as a writer of. -/
theorem registerAndFlagWriters : Obligations.RegisterAndFlagWriters := by
  intro i s hc
  obtain ⟨t, ht, ⟨a, x, y, sp, ⟨n, v, z, c, d, fi⟩⟩⟩ := exec_regsKept i s hc
  exact ⟨t, ht, a, x, y, n, v, z, c, fun hs => ⟨sp hs, d hs, fi hs⟩⟩

end Sys2Proof.Machine

/-! Proofs of the family 20_memory.md: the address map (R80), the RAM law (R81), the I/O page and its soft-switches (R90 to
R98), and what an instruction that stores nothing leaves alone (R78, R120). -/

namespace Sys2Proof.Machine

/-! ## RAM through the bus (20_memory.md R80, R81) -/

section RamThroughTheBus

variable (s : State)

/-- A write of RAM touches no soft-switch, so it selects no other bank. -/
theorem bankOf_busWrite_ram {r : Addr} (h : r.toNat < 0xC000) (v : Byte) (q : Addr) (w : Bool) :
    (busWrite r v s).bankOf q w = s.bankOf q w := by
  rw [busWrite_ram s v h, State.bankOf_setRam]

/-- A write of RAM touches no device. -/
theorem busWrite_ram_devices {q : Addr} (h : q.toNat < 0xC000) (v : Byte) : DevicesAs s (busWrite q v s) := by
  rw [busWrite_ram s v h]
  exact ⟨rfl, rfl, rfl, rfl, rfl, rfl⟩

/-- A bus write charges nothing. -/
theorem busWrite_costs (q : Addr) (v : Byte) : Costs 0 s (busWrite q v s) := ⟨by simp, by simp⟩

theorem busWrite_regs (q : Addr) (v : Byte) : (busWrite q v s).regs = s.regs := by simp [State.regs]

variable {s}

theorem ram_wf (hm : s.ramMain.wf = true) (hx : s.ramAux.wf = true) (b : Bank) : (s.ram b).wf = true := by
  cases b
  · exact hm
  · exact hx

/-- A read gives the byte just written, when both accesses select one bank. -/
theorem busRead_busWrite_same {q : Addr} (h : q.toNat < 0xC000) (v : Byte) (hw : (s.ram (s.bankOf q true)).wf = true)
    (hb : s.bankOf q true = s.bankOf q false) : (busRead q (busWrite q v s)).1 = v := by
  rw [busRead_ram _ h, bankOf_busWrite_ram s h, ← hb]
  exact (busWrite_stored s q v).here h hw

/-- A write of RAM is not seen by a read of another RAM address. -/
theorem busRead_busWrite_other {q r : Addr} (hq : q.toNat < 0xC000) (hr : r.toNat < 0xC000) (hne : r ≠ q) (v : Byte) :
    (busRead q (busWrite r v s)).1 = (busRead q s).1 := by
  have hn : q.toNat ≠ r.toNat := fun h => hne (BitVec.eq_of_toNat_eq h.symm)
  rw [busRead_ram _ hq, busRead_ram _ hq, bankOf_busWrite_ram s hr]
  exact busWrite_byteAt_other s hn

/-- A cold reset empties both banks. -/
theorem busRead_resetCpu_cold {q : Addr} (h : q.toNat < 0xC000) : (busRead q (resetCpu true s)).1 = 0#8 := by
  rw [busRead_ram _ h]
  cases (resetCpu true s).bankOf q false <;> rfl

end RamThroughTheBus

/-- Settles O11: a store puts its byte in the selected bank and nowhere else, and an empty bank reads 0. -/
theorem ramLaw : Obligations.RamLaw := by
  intro s q hq
  exact ⟨fun v hm hx hb => busRead_busWrite_same hq v (ram_wf hm hx _) hb,
    fun r v hr hne => busRead_busWrite_other hq hr hne v, busRead_resetCpu_cold hq⟩

/-- Settles O10: one clause for each row of the address map. -/
theorem busAddressMap : Obligations.BusAddressMap := by
  intro s q v
  refine ⟨fun hq => ?ram, fun hq hq' => ⟨busRead_io s hq hq', busWrite_io s v hq hq'⟩, fun hq hq' => ?card, fun hq => ?rom,
    fun hb w => by rw [State.bankOf, hb]⟩
  case ram =>
    exact ⟨busRead_ram s hq, busWrite_stored s q v, busWrite_regs s q v, busWrite_pc s q v, busWrite_costs s q v,
      busWrite_ram_devices s hq v, busWrite_control s q v⟩
  case card =>
    rw [busRead_rom s hq, if_pos hq']
    exact ⟨rfl, busWrite_rom s v hq⟩
  case rom =>
    have hq' : 0xC100 ≤ q.toNat := by omega
    rw [busRead_rom s hq', if_neg (by omega)]
    exact ⟨rfl, busWrite_rom s v hq'⟩

/-! ## The I/O page (20_memory.md R90 to R98) -/

section IoPage

variable (s : State) (off : Byte)

theorem ioAddr_toNat : (0xC0#8 ++ off).toNat = 0xC000 + off.toNat := by
  rw [BitVec.toNat_append, Nat.shiftLeft_eq, Nat.mul_comm, ← Nat.two_pow_add_eq_or_of_lt off.isLt]
  rfl

theorem lowByte_ioAddr : lowByte (0xC0#8 ++ off) = off := BitVec.extractLsb'_append_eq_right

/-- `$C000 + off` lies in the I/O page. -/
theorem ioAddr_mem : 0xC000 ≤ (0xC0#8 ++ off).toNat ∧ (0xC0#8 ++ off).toNat < 0xC100 := by
  have := off.isLt
  rw [ioAddr_toNat]
  omega

theorem busRead_ioAddr : busRead (0xC0#8 ++ off) s = s.ioRead off := by
  rw [busRead_io s (ioAddr_mem off).1 (ioAddr_mem off).2, lowByte_ioAddr]

theorem busWrite_ioAddr (v : Byte) : busWrite (0xC0#8 ++ off) v s = s.ioEffect off (.write v) := by
  rw [busWrite_io s v (ioAddr_mem off).1 (ioAddr_mem off).2, lowByte_ioAddr]

/-! ### What a read leaves: its draw apart, the side effects of the access -/

theorem ioRead_kbdLatch : (s.ioRead off).2.kbdLatch = (s.ioEffect off .read).kbdLatch := by
  obtain h | h := s.ioRead_state off <;> rw [h]

theorem ioRead_audio : (s.ioRead off).2.audio = (s.ioEffect off .read).audio := by
  obtain h | h := s.ioRead_state off <;> rw [h]

theorem ioRead_sw : (s.ioRead off).2.sw = (s.ioEffect off .read).sw := by
  obtain h | h := s.ioRead_state off <;> rw [h]

theorem ioRead_video : (s.ioRead off).2.video = (s.ioEffect off .read).video := by
  obtain h | h := s.ioRead_state off <;> rw [h]

/-! ### What a read returns -/

theorem and_ff (v : Byte) : v &&& 0xFF#8 = v := BitVec.and_allOnes

/-- The bits a rule fixes, and the others drawn. -/
theorem ioRead_value : (s.ioRead off).1 =
    (Config.drawByte s.draws &&& ~~~(s.ioFixed off).1) ||| ((s.ioFixed off).2 &&& (s.ioFixed off).1) := by
  unfold State.ioRead
  split
  case isTrue h => rw [h, and_ff]; simp
  case isFalse => rfl

variable {off}

theorem ioFixed_keyboard (h : off.toNat < 0x10) : s.ioFixed off = (0xFF#8, s.kbdLatch) := if_pos h

theorem ioFixed_vblStatus :
    s.ioFixed 0x19#8 = (0x80#8, if s.video.vblPhase = .blanking then 0x80#8 else 0#8) := rfl

theorem isDiskOffset_iff {c : Params} : isDiskOffset c off = true ↔ off.toNat / 16 = 8 + c.diskSlot.val := beq_iff_eq

theorem getLsbD_zero_eq_false_iff : off.getLsbD 0 = false ↔ off.toNat % 2 = 0 := by
  rw [BitVec.getLsbD, Nat.testBit_zero, decide_eq_false_iff_not]
  omega

/-- Outside the keyboard, the VBL status and the even disk offsets no rule fixes a bit. -/
theorem ioFixed_free (hk : 0x10 ≤ off.toNat) (hv : off ≠ 0x19#8)
    (hd : ¬ (off.toNat / 16 = 8 + s.cfg.diskSlot.val ∧ off.toNat % 2 = 0)) : s.ioFixed off = (0#8, 0#8) := by
  rw [← isDiskOffset_iff, ← getLsbD_zero_eq_false_iff] at hd
  rw [State.ioFixed, if_neg (by omega), if_neg hv, if_neg (by simpa using hd)]

/-! ### Accesses without side effects -/

/-- No slot's addresses begin below $C080. -/
theorem isDiskOffset_of_lt (c : Params) (h : off.toNat < 0x80) : isDiskOffset c off = false := by
  rw [← Bool.not_eq_true, isDiskOffset_iff]
  omega

/-- An access of the VBL status changes nothing (R94). -/
theorem ioEffect_vblStatus (acc : Access) : s.ioEffect 0x19#8 acc = s := by
  rw [State.ioEffect, isDiskOffset_of_lt s.cfg (by decide)]
  rfl

/-- An access of an address R92 does not list leaves the soft-switches (R97). -/
theorem SoftSwitches.access_unlisted (c : Params) (acc : Access) (sw : SoftSwitches)
    (h : off ∉ [0x00#8, 0x01#8, 0x0C#8, 0x0D#8, 0x0E#8, 0x0F#8, 0x50#8, 0x51#8, 0x52#8, 0x53#8, 0x54#8, 0x55#8, 0x56#8,
      0x57#8, 0x5E#8, 0x5F#8]) : sw.access c off acc = sw := by
  simp only [List.mem_cons, List.not_mem_nil, or_false, not_or, ← BitVec.toNat_inj] at h
  unfold SoftSwitches.access
  split
  case h_17 => rfl
  all_goals simp_all

end IoPage

/-- Settles O12: a read gives the fixed bits and draws the rest; the side effects are those of the access. -/
theorem ioPageReads : Obligations.IoPageReads := by
  intro s off v
  simp only [busRead_ioAddr, busWrite_ioAddr, ioRead_kbdLatch, ioRead_audio, State.ioEffect_kbdLatch, State.ioEffect_audio]
  refine ⟨fun h => ?keyboard, ?vbl, fun hk hv hd => ?free, fun h => ?strobe, fun h => ?noStrobe, fun h => ?click,
    fun h => ?noClick, ?vblWrite⟩
  case keyboard => rw [ioRead_value, ioFixed_keyboard s h, and_ff]; simp
  case vbl =>
    rintro rfl
    rw [ioRead_value, ioFixed_vblStatus, BitVec.or_comm]
    split <;> rfl
  case free => rw [ioRead_value, ioFixed_free s hk hv hd]; simp [and_ff]
  case strobe => exact ⟨if_pos h, if_pos h⟩
  case noStrobe => exact ⟨if_neg h, if_neg h⟩
  case click => exact ⟨if_pos h, if_pos h⟩
  case noClick => exact ⟨if_neg h, if_neg h⟩
  case vblWrite =>
    rintro rfl
    exact ioEffect_vblStatus s _

/-- Settles O13: both accesses of an address make of the switches what `SoftSwitches.access` says of it. -/
theorem softSwitchAccess : Obligations.SoftSwitchAccess := by
  intro s v
  simp only [busRead_ioAddr, busWrite_ioAddr, ioRead_sw, ioRead_video, State.ioEffect_sw, State.ioEffect_video]
  have hl (off : Byte) (acc : Access) := SoftSwitches.access_unlisted (off := off) s.cfg acc s.sw
  refine ⟨⟨rfl, rfl⟩, ⟨rfl, rfl⟩, ⟨rfl, rfl⟩, ⟨rfl, rfl⟩, ⟨rfl, rfl⟩, ⟨rfl, rfl⟩, ⟨rfl, rfl⟩, ⟨rfl, rfl⟩, ⟨rfl, rfl⟩,
    ⟨rfl, rfl⟩, ⟨rfl, rfl⟩, ⟨rfl, rfl⟩, ⟨rfl, rfl⟩, ⟨rfl, rfl⟩, ⟨rfl, rfl⟩, ⟨rfl, rfl⟩, fun off h => ⟨hl off _ h, hl off _ h⟩,
    fun off h => by simp only [if_pos h, and_self], fun h m sw => by rw [an3ModeUpdate, h]⟩

/-! ## What an instruction that stores nothing leaves alone (20_memory.md R78, R120)

`RequestsKept s t`: what no instruction but a trap call changes is the same. `Undisturbed s t`: RAM is the same as well, as
after every operation on registers and every read of the bus. An instruction that stores nothing is made of those alone. -/

/-- The request lines, the run budget, the trap table, the timers and the parameters are the same. -/
structure RequestsKept (s t : State) : Prop where
  irqLine        : t.irqLine = s.irqLine
  nmiPending     : t.nmiPending = s.nmiPending
  instructionRun : t.instructionRun = s.instructionRun
  speed          : t.speed = s.speed
  trapTable      : t.trapTable = s.trapTable
  timers         : t.timers = s.timers
  cfg            : t.cfg = s.cfg

/-- RAM and what no instruction but a trap call changes are the same. -/
structure Undisturbed (s t : State) : Prop where
  ram      : RamKept s t
  requests : RequestsKept s t

/-- From `s` to `t` no request changed, and RAM only if `i`, run in `s`, is one that stores. -/
structure StoresByRule (i : Instr) (s t : State) : Prop where
  ram      : storesMemory i = false → softwareInterrupt i s = false → RamKept s t
  requests : RequestsKept s t

section Operations

variable {i : Instr} {s t u : State}

theorem ControlKept.requests (h : ControlKept s t) : RequestsKept s t :=
  ⟨h.irqLine, h.nmiPending, h.instructionRun, h.speed, h.trapTable, h.timers, h.cfg⟩

theorem RequestsKept.trans (h : RequestsKept s t) (k : RequestsKept t u) : RequestsKept s u :=
  ⟨k.irqLine.trans h.irqLine, k.nmiPending.trans h.nmiPending, k.instructionRun.trans h.instructionRun,
    k.speed.trans h.speed, k.trapTable.trans h.trapTable, k.timers.trans h.timers, k.cfg.trans h.cfg⟩

theorem Undisturbed.trans (h : Undisturbed s t) (k : Undisturbed t u) : Undisturbed s u :=
  ⟨h.ram.trans k.ram, h.requests.trans k.requests⟩

theorem Undisturbed.storesByRule (h : Undisturbed s t) : StoresByRule i s t := ⟨fun _ _ => h.ram, h.requests⟩

theorem RequestsKept.storesByRule (h : RequestsKept s t) (hi : storesMemory i = true) : StoresByRule i s t :=
  ⟨by simp [hi], h⟩

variable (s)

/-- Registers, counters and the fault log may change: `setA`, `charge`, `retire`, `logFault` and their like do no more. -/
theorem registers_undisturbed {a x y sp : Byte} {pc : Addr} {p : Flags} {tc : BitVec 64} {c : BitVec 32}
    {log : List (Addr × Byte)} :
    Undisturbed s { s with a := a, x := x, y := y, sp := sp, pc := pc, p := p, totalCycle := tc, cycle := c, faultLog := log } :=
  ⟨⟨rfl, rfl⟩, ⟨rfl, rfl, rfl, rfl, rfl, rfl, rfl⟩⟩

theorem busRead_undisturbed (q : Addr) : Undisturbed s (busRead q s).2 :=
  ⟨busRead_ramKept s q, (busRead_control s q).requests⟩

theorem read16_undisturbed (q : Addr) : Undisturbed s (read16 q s).2 :=
  (busRead_undisturbed s q).trans (busRead_undisturbed _ _)

theorem pull_undisturbed : Undisturbed s (pull s).2 := by
  rw [pull_state]
  exact registers_undisturbed s

theorem returnFromInterrupt_undisturbed : Undisturbed s (returnFromInterrupt s) :=
  have hp := (pull_undisturbed s).trans (registers_undisturbed _)
  ((hp.trans (pull_undisturbed _)).trans (pull_undisturbed _)).trans (registers_undisturbed _)

theorem push_requests (v : Byte) : RequestsKept s (push v s) := (push_control s v).requests

theorem enterInterrupt_requests (vector : Addr) (b : Bool) : RequestsKept s (enterInterrupt vector b s) := by
  constructor <;> simp [enterInterrupt]

end Operations

/-! ### The instruction forms -/

section StoringForms

variable {i : Instr} (s : State)

theorem readInstr_undisturbed (m : Src) (extra : Nat) {f : Byte → State → State} (hf : ∀ v t, Undisturbed t (f v t)) :
    Undisturbed s (readInstr m extra f s) :=
  have hl : Undisturbed s (load m s).st := ⟨load_ramKept s m, (load_control s m).requests⟩
  (hl.trans (hf _ _)).trans (registers_undisturbed _)

theorem impliedInstr_undisturbed (k : Nat) {f : State → State} (hf : Undisturbed s (f s)) :
    Undisturbed s (impliedInstr k f s) :=
  hf.trans (registers_undisturbed _)

theorem pullInto_undisturbed {setReg : State → Byte → State} (hr : ∀ t v, Undisturbed t (setReg t v)) :
    Undisturbed s (pullInto setReg s) :=
  ((pull_undisturbed s).trans (hr _ _)).trans (registers_undisturbed _)

theorem branch_undisturbed (taken : Bool) (q : Addr) (r : Byte) (k : Nat) : Undisturbed s (branch taken q r k s) :=
  have ⟨_, h⟩ := branch_frame s taken q r k
  ⟨h.ram, h.control.requests⟩

theorem bitBranchInstr_undisturbed (n : Nat) (want : Bool) (z r : Byte) :
    Undisturbed s (bitBranchInstr n want z r s) :=
  (busRead_undisturbed s _).trans (branch_undisturbed _ _ _ _ _)

theorem wdcAccess_undisturbed (op : Byte) (operand : UndefOperand) : Undisturbed s (wdcAccess op operand s) := by
  unfold wdcAccess
  cases wdcForm op with
  | imp | imm => exact registers_undisturbed s
  | zp | zpx | abs => exact busRead_undisturbed s _

theorem testInstr_requests (m : TestMode) (g : Byte → Byte → Byte) : RequestsKept s (testInstr m g s) := by
  simp only [testInstr, resolve_st]
  exact (modify_frame s _ _ _ _ _).control.requests

theorem bitModifyInstr_requests (z : Byte) (g : Byte → Byte) : RequestsKept s (bitModifyInstr z g s) :=
  ((busRead_control s _).trans (busWrite_control _ _ _)).requests.trans (registers_undisturbed _).requests

theorem pushInstr_requests (k : Nat) (v : State → Byte) : RequestsKept s (impliedInstr k (fun t => push (v t) t) s) :=
  (push_requests s _).trans (registers_undisturbed _).requests

/-- Only the accumulator form of a read-modify-write instruction stores nothing. -/
theorem modifyInstr_storesByRule (m : RmwMode) (cycles : RmwMode → Bool → Nat) (g : Byte → Flags → Byte × Flags)
    (hi : storesMemory i = decide (m ≠ .acc)) : StoresByRule i s (modifyInstr m cycles g s) := by
  cases m with
  | acc => exact (registers_undisturbed s).storesByRule
  | zp z | zpx z | abs w | abx w =>
    rw [modifyInstr_mem s rfl]
    exact (modify_frame s _ _ _ _ _).control.requests.storesByRule hi

end StoringForms

/-! ### Every instruction -/

theorem execJmp_undisturbed (m : JmpMode) (s : State) : ∃ t, execJmp m s = .next t ∧ Undisturbed s t := by
  cases m with
  | abs w => exact ⟨_, rfl, registers_undisturbed s⟩
  | ind w | iax w => exact ⟨_, rfl, (read16_undisturbed s _).trans (registers_undisturbed _)⟩

/-- Without a callback $00 is a NOP or the software interrupt, which pushes (45_control.md R366). -/
theorem execBrk_storesByRule {t : Byte} {s : State} (h : callsTrap (.brk t) s = false) :
    ∃ u, execBrk t s = .next u ∧ StoresByRule (.brk t) s u := by
  have ht : lookupTrap s.trapTable t = none := by simpa [callsTrap] using h
  unfold execBrk
  rw [ht]
  cases hm : s.cfg.untrappedBrk with
  | nop2 => exact ⟨_, rfl, (registers_undisturbed s).storesByRule⟩
  | interrupt =>
    have hs : softwareInterrupt (.brk t) s = true := by simp [softwareInterrupt, hm]
    have hpc : RequestsKept s (s.setPc (s.pc + 2)) := (registers_undisturbed s).requests
    exact ⟨_, rfl, by simp [hs], (hpc.trans (enterInterrupt_requests _ _ _)).trans (registers_undisturbed _).requests⟩

theorem execUndef_undisturbed (op : Byte) (operand : UndefOperand) (s : State) :
    ∃ t, execUndef op operand s = .next t ∧ Undisturbed s t := by
  unfold execUndef
  cases s.cfg.undefPolicy with
  | docNop2 => exact ⟨_, rfl, registers_undisturbed s⟩
  | wdc => exact ⟨_, rfl, (wdcAccess_undisturbed s op operand).trans (registers_undisturbed _)⟩

/-- Every instruction that calls no trap callback stores by its rule only, and changes no request. -/
theorem exec_storesByRule (i : Instr) (s : State) (h : callsTrap i s = false) :
    ∃ t, exec i s = .next t ∧ StoresByRule i s t := by
  cases i with
  | lda m | ldx m | ldy m | adc m | sbc m | cmp m | cpx m | cpy m | and m | ora m | eor m | bit m =>
    exact ⟨_, rfl, (readInstr_undisturbed s _ _ fun _ t => registers_undisturbed t).storesByRule⟩
  | sta m | stx m | sty m | stz m => exact ⟨_, rfl, (storeInstr_frame s _ _).control.requests.storesByRule rfl⟩
  | inc m | dec m | asl m | lsr m | rol m | ror m => exact ⟨_, rfl, modifyInstr_storesByRule s m _ _ rfl⟩
  | tsb m | trb m => exact ⟨_, rfl, (testInstr_requests s _ _).storesByRule rfl⟩
  | rmb0 z | rmb1 z | rmb2 z | rmb3 z | rmb4 z | rmb5 z | rmb6 z | rmb7 z
  | smb0 z | smb1 z | smb2 z | smb3 z | smb4 z | smb5 z | smb6 z | smb7 z =>
    exact ⟨_, rfl, (bitModifyInstr_requests s _ _).storesByRule rfl⟩
  | bbr0 z r | bbr1 z r | bbr2 z r | bbr3 z r | bbr4 z r | bbr5 z r | bbr6 z r | bbr7 z r
  | bbs0 z r | bbs1 z r | bbs2 z r | bbs3 z r | bbs4 z r | bbs5 z r | bbs6 z r | bbs7 z r =>
    exact ⟨_, rfl, (bitBranchInstr_undisturbed s _ _ _ _).storesByRule⟩
  | bpl r | bmi r | bvc r | bvs r | bcc r | bcs r | bne r | beq r | bra r =>
    exact ⟨_, rfl, (branch_undisturbed s _ _ _ _).storesByRule⟩
  | tax | tay | txa | tya | tsx | txs | inx | iny | dex | dey | clc | sec | cli | sei | cld | sed | clv | nop =>
    exact ⟨_, rfl, (impliedInstr_undisturbed s _ (registers_undisturbed s)).storesByRule⟩
  | pha | php | phx | phy => exact ⟨_, rfl, (pushInstr_requests s _ _).storesByRule rfl⟩
  | pla | plx | ply =>
    exact ⟨_, rfl, (impliedInstr_undisturbed s _ (pullInto_undisturbed s fun t _ => registers_undisturbed t)).storesByRule⟩
  | plp =>
    exact ⟨_, rfl, (impliedInstr_undisturbed s _ ((pull_undisturbed s).trans (registers_undisturbed _))).storesByRule⟩
  | jmp m =>
    obtain ⟨t, ht, hk⟩ := execJmp_undisturbed m s
    exact ⟨t, ht, hk.storesByRule⟩
  | jsr w =>
    exact ⟨_, rfl,
      (((push_requests s _).trans (push_requests _ _)).trans (registers_undisturbed _).requests).storesByRule rfl⟩
  | rts =>
    exact ⟨_, rfl, (((pull_undisturbed s).trans (pull_undisturbed _)).trans (registers_undisturbed _)).storesByRule⟩
  | rti => exact ⟨_, rfl, ((returnFromInterrupt_undisturbed s).trans (registers_undisturbed _)).storesByRule⟩
  | brk t => exact execBrk_storesByRule h
  | undef op operand =>
    obtain ⟨t, ht, hk⟩ := execUndef_undisturbed op operand s
    exact ⟨t, ht, hk.storesByRule⟩

/-- Settles O40: by cases of the instruction, one that stores nothing being made of operations that leave RAM. -/
theorem storingInstructionsOnly : Obligations.StoringInstructionsOnly := by
  intro i s hc
  obtain ⟨t, ht, ⟨ram, ⟨irq, nmi, run, speed, traps, timers, cfg⟩⟩⟩ := exec_storesByRule i s hc
  exact ⟨t, ht, ram, irq, nmi, run, speed, traps, timers, cfg⟩

end Sys2Proof.Machine

/-! Proofs of the family 30_encoding.md: decoder and encoder invert each other (R130, R131, R140, R143), the cycles of every
defined opcode (R136, R141), and the effective addresses of the memory modes (R135). -/

namespace Sys2Proof.Machine

/-! ## Words and their bytes -/

theorem wordOf_lowByte_highByte (w : Addr) : wordOf (lowByte w) (highByte w) = w :=
  (BitVec.extractLsb'_append_extractLsb'_eq_extractLsb' rfl).trans BitVec.extractLsb'_eq_self

theorem lowByte_wordOf (l h : Byte) : lowByte (wordOf l h) = l := BitVec.extractLsb'_append_eq_right

theorem highByte_wordOf (l h : Byte) : highByte (wordOf l h) = h := BitVec.extractLsb'_append_eq_left

theorem wordBytes_wordOf (l h : Byte) : wordBytes (wordOf l h) = [l, h] := by
  rw [wordBytes, lowByte_wordOf, highByte_wordOf]

/-! ## The opcode map (30_encoding.md R140)

What holds of every entry is said of all rows at once, and read off at an opcode by `mapEntry_congr`. -/

/-- What the map holds for an opcode, be the opcode undefined or not. -/
def mapEntry (op : Byte) : Byte → Byte → Instr :=
  (opcodeRows.getD (op.toNat / 16) []).getD (op.toNat % 16) (undefEntry op)

theorem decodeBytes_undefined {c : Params} {op : Byte} (h : undefinedOpcode c op = true) (b1 b2 : Byte) :
    decodeBytes c op b1 b2 = .undef op (undefOperand c op b1 b2) := if_pos h

theorem decodeBytes_defined {c : Params} {op : Byte} (h : undefinedOpcode c op = false) (b1 b2 : Byte) :
    decodeBytes c op b1 b2 = mapEntry op b1 b2 := if_neg (by simp [h])

theorem opcodeRow_length {row : List (Byte → Byte → Instr)} (h : row ∈ opcodeRows) : row.length = 16 :=
  have hl : opcodeRows.map List.length = opcodeRows.map fun _ => 16 := rfl
  List.map_inj_left.1 hl row h

theorem mapEntry_mem (op : Byte) : ∃ row ∈ opcodeRows, mapEntry op ∈ row := by
  have hr : op.toNat / 16 < opcodeRows.length := Nat.div_lt_of_lt_mul op.isLt
  have hk : op.toNat % 16 < opcodeRows[op.toNat / 16].length := by
    rw [opcodeRow_length (List.getElem_mem hr)]
    exact Nat.mod_lt _ (by decide)
  refine ⟨opcodeRows[op.toNat / 16], List.getElem_mem hr, ?_⟩
  rw [mapEntry, List.getD_eq_getElem _ _ hr, List.getD_eq_getElem _ _ hk]
  exact List.getElem_mem hk

/-- Two functions that agree on every entry of the map agree at every opcode. -/
theorem mapEntry_congr {α : Type} {f g : (Byte → Byte → Instr) → α}
    (h : opcodeRows.map (List.map f) = opcodeRows.map (List.map g)) (op : Byte) : f (mapEntry op) = g (mapEntry op) := by
  obtain ⟨row, hrow, he⟩ := mapEntry_mem op
  exact List.map_inj_left.1 (List.map_inj_left.1 h row hrow) _ he

/-- Row by row, each place of the map holds an instruction with that place's opcode. -/
theorem opcodeRows_opcodeOf (b1 b2 : Byte) :
    opcodeRows.map (List.map fun e => opcodeOf (e b1 b2)) =
      (List.range 16).map fun r => (List.range 16).map fun k => some (BitVec.ofNat 8 (16 * r + k)) := rfl

theorem opcodeOf_mapEntry (op b1 b2 : Byte) : opcodeOf (mapEntry op b1 b2) = some op := by
  have hr : op.toNat / 16 < 16 := Nat.div_lt_of_lt_mul op.isLt
  have hk : op.toNat % 16 < 16 := Nat.mod_lt _ (by decide)
  calc opcodeOf (mapEntry op b1 b2)
      = ((opcodeRows.map (List.map fun e => opcodeOf (e b1 b2))).getD (op.toNat / 16) []).getD (op.toNat % 16)
          (some op) := by
        rw [← List.map_nil, List.getD_map]
        exact (List.getD_map _ _ fun e : Byte → Byte → Instr => opcodeOf (e b1 b2)).symm
    _ = some op := by
        rw [opcodeRows_opcodeOf]
        simp [hr, hk, Nat.div_add_mod]

/-- The operand bytes of an entry: those it was given, as many as it takes, a word of them low byte first. -/
theorem opcodeRows_operandBytes (b1 b2 : Byte) :
    opcodeRows.map (List.map fun e => operandBytes (e b1 b2)) =
      opcodeRows.map (List.map fun e =>
        if (operandBytes (e 0 0)).length = 2 ∧ (e 0 0).isBitOp = false then wordBytes (wordOf b1 b2)
        else [b1, b2].take (operandBytes (e 0 0)).length) := rfl

theorem operandBytes_mapEntry (op b1 b2 : Byte) :
    operandBytes (mapEntry op b1 b2) = [b1, b2].take (operandBytes (mapEntry op 0 0)).length := by
  rw [mapEntry_congr (opcodeRows_operandBytes b1 b2) op]
  split
  case isTrue h => rw [h.1, wordBytes_wordOf]; rfl
  case isFalse => rfl

/-- If the term is an undefined opcode's, the opcode is one undefined whatever the parameters. -/
def undefinedByMap : Instr → Bool
  | .undef op _ => alwaysUndefined op
  | _ => true

theorem opcodeRows_undefinedByMap (b1 b2 : Byte) :
    opcodeRows.map (List.map fun e => undefinedByMap (e b1 b2)) = opcodeRows.map (List.map fun _ => true) := rfl

/-- At a defined opcode the map holds a defined instruction. -/
theorem mapEntry_ne_undef {c : Params} {op : Byte} (hd : undefinedOpcode c op = false) (b1 b2 o : Byte) (r : UndefOperand) :
    mapEntry op b1 b2 ≠ .undef o r := by
  intro he
  have ho : some o = some op := by rw [← opcodeOf_mapEntry op b1 b2, he, opcodeOf]
  have hm := mapEntry_congr (opcodeRows_undefinedByMap b1 b2) op
  rw [he] at hm
  cases ho
  simp only [undefinedOpcode, show alwaysUndefined op = true from hm, Bool.true_or, Bool.true_eq_false] at hd

/-! ## The opcodes of defined instructions -/

section DefinedInstructions

variable {i : Instr} {op : Byte}

/-- The opcode of a defined instruction is undefined only if that is a bit instruction and those are absent (R143, R144). -/
theorem undefinedOpcode_of_opcodeOf (c : Params) (h : opcodeOf i = some op) (hu : ∀ o r, i ≠ .undef o r) :
    undefinedOpcode c op = !i.presentOk c := by
  cases i with
  | lda m | adc m | sbc m | cmp m | and m | ora m | eor m | ldx m | ldy m | bit m | cpx m | cpy m =>
    rcases m with _ | ⟨_ | _⟩ <;> cases h <;> rfl
  | sta m | stx m | sty m | stz m => cases m <;> cases h <;> rfl
  | inc m | dec m | asl m | lsr m | rol m | ror m | tsb m | trb m | jmp m =>
    cases m <;> dsimp only [opcodeOf, rmwOpcode, testOpcode, jmpOpcode] at h <;> cases h <;> rfl
  | undef o r => exact absurd rfl (hu o r)
  | _ => cases h; rfl

/-- An entry that takes a word gives at the bytes of `w` what it gives at any two bytes that make `w`. -/
theorem mapEntry_word {w : Addr} (h : ∀ lo hi, wordOf lo hi = w → mapEntry op lo hi = i) :
    mapEntry op (lowByte w) (highByte w) = i :=
  h _ _ (wordOf_lowByte_highByte w)

/-- At its own opcode and operand bytes the map holds the instruction itself. -/
theorem mapEntry_operandBytes (h : opcodeOf i = some op) (hu : ∀ o r, i ≠ .undef o r) (rest : List Byte) :
    mapEntry op ((operandBytes i ++ rest).getD 0 0) ((operandBytes i ++ rest).getD 1 0) = i := by
  cases i with
  | lda m | adc m | sbc m | cmp m | and m | ora m | eor m | ldx m | ldy m | bit m | cpx m | cpy m =>
    rcases m with n | m
    · cases h; rfl
    · cases m with
      | abs w | abx w | aby w => cases h <;> exact mapEntry_word fun | _, _, rfl => rfl
      | _ => cases h <;> rfl
  | sta m | stx m | sty m | stz m =>
    cases m with
    | abs w | abx w | aby w => cases h <;> exact mapEntry_word fun | _, _, rfl => rfl
    | _ => cases h <;> rfl
  | inc m | dec m | asl m | lsr m | rol m | ror m =>
    cases m with
    | abs w | abx w =>
      dsimp only [opcodeOf, rmwOpcode] at h
      cases h
      exact mapEntry_word fun | _, _, rfl => rfl
    | _ =>
      dsimp only [opcodeOf, rmwOpcode] at h
      cases h
      rfl
  | tsb m | trb m =>
    cases m <;> dsimp only [opcodeOf, testOpcode] at h <;> cases h
    · rfl
    · exact mapEntry_word fun | _, _, rfl => rfl
  | jmp m =>
    cases m <;> dsimp only [opcodeOf, jmpOpcode] at h <;> cases h <;> exact mapEntry_word fun | _, _, rfl => rfl
  | jsr w => cases h; exact mapEntry_word fun | _, _, rfl => rfl
  | undef o r => exact absurd rfl (hu o r)
  | _ => cases h; rfl

end DefinedInstructions

/-! ## Decoding an opcode and the bytes after it -/

section DecodedInstruction

variable (c : Params) (op b1 b2 : Byte)

/-- The operand bytes of an undefined opcode are the first of those that follow it, as many whatever they are (R143). -/
theorem undefOperand_bytes :
    (undefOperand c op b1 b2).bytes = [b1, b2].take (undefOperand c op 0 0).bytes.length := by
  unfold undefOperand
  cases c.undefPolicy
  · rfl
  · cases wdcForm op <;> rfl

/-- Reading an undefined opcode's operand back from its own bytes. -/
theorem undefOperand_of_bytes (rest : List Byte) :
    undefOperand c op (((undefOperand c op b1 b2).bytes ++ rest).getD 0 0)
        (((undefOperand c op b1 b2).bytes ++ rest).getD 1 0)
      = undefOperand c op b1 b2 := by
  unfold undefOperand
  cases c.undefPolicy
  · rfl
  · cases wdcForm op <;> rfl

theorem undefOk_of_ne_undef {i : Instr} (hu : ∀ o r, i ≠ .undef o r) : i.undefOk c = true := by
  unfold Instr.undefOk
  split
  · exact absurd rfl (hu _ _)
  · rfl

theorem undefOperand_undefOk (h : undefinedOpcode c op = true) :
    (Instr.undef op (undefOperand c op b1 b2)).undefOk c = true := by
  simp only [Instr.undefOk, h, Bool.true_and]
  unfold undefOperand
  cases c.undefPolicy
  · exact beq_self_eq_true _
  · cases wdcForm op <;> exact beq_self_eq_true _

theorem opcodeOf_decodeBytes : opcodeOf (decodeBytes c op b1 b2) = some op := by
  cases h : undefinedOpcode c op with
  | true => rw [decodeBytes_undefined h, opcodeOf]
  | false => rw [decodeBytes_defined h, opcodeOf_mapEntry]

/-- The opcode alone tells how many of the bytes after it are the operand's (R131). -/
theorem operandBytes_decodeBytes :
    operandBytes (decodeBytes c op b1 b2) = [b1, b2].take (opcodeLength c op - 1) := by
  rw [opcodeLength, Nat.add_sub_cancel_left]
  cases h : undefinedOpcode c op with
  | true => simp only [decodeBytes_undefined h]; exact undefOperand_bytes c op b1 b2
  | false => simp only [decodeBytes_defined h]; exact operandBytes_mapEntry op b1 b2

theorem decodeBytes_wellFormed : (decodeBytes c op b1 b2).wellFormed c = true := by
  have hm : (decodeBytes c op b1 b2).modeOk = true := by rw [← opcodeOf_isSome, opcodeOf_decodeBytes]; rfl
  rw [Instr.wellFormed, hm, Bool.true_and]
  cases h : undefinedOpcode c op with
  | true =>
    rw [decodeBytes_undefined h, undefOperand_undefOk c op b1 b2 h]
    rfl
  | false =>
    have hne := mapEntry_ne_undef h b1 b2
    have hp := undefinedOpcode_of_opcodeOf c (opcodeOf_mapEntry op b1 b2) hne
    rw [decodeBytes_defined h, undefOk_of_ne_undef c hne, Bool.and_true]
    simpa [h] using hp

theorem opcodeLength_eq : opcodeLength c op = (operandBytes (decodeBytes c op b1 b2)).length + 1 := by
  have h0 := congrArg List.length (operandBytes_decodeBytes c op 0 0)
  have h := congrArg List.length (operandBytes_decodeBytes c op b1 b2)
  simp only [List.length_take, List.length_cons, List.length_nil] at h0 h
  rw [h, ← h0, opcodeLength, Nat.add_comm]

theorem exists_opcodeLength : ∃ k ≤ 2, opcodeLength c op = k + 1 := by
  refine ⟨_, ?_, opcodeLength_eq c op 0 0⟩
  rw [operandBytes_decodeBytes]
  exact List.length_take_le' _ _

theorem encode_decodeBytes :
    encode (decodeBytes c op b1 b2) = op :: [b1, b2].take (opcodeLength c op - 1) := by
  rw [encode, opcodeOf_decodeBytes, operandBytes_decodeBytes]

variable {c op}

/-- A byte list long enough for its opcode decodes to the opcode's instruction with the bytes that follow. -/
theorem decode_cons {tail : List Byte} (h : opcodeLength c op ≤ tail.length + 1) :
    decode c (op :: tail)
      = .decoded (decodeBytes c op (tail.getD 0 0) (tail.getD 1 0)) (tail.drop (opcodeLength c op - 1)) :=
  if_neg (Nat.not_lt.2 h)

theorem exists_opcodeOf {i : Instr} (hw : i.wellFormed c = true) : ∃ op, opcodeOf i = some op := by
  simp only [Instr.wellFormed, Bool.and_eq_true] at hw
  obtain ⟨⟨hm, -⟩, -⟩ := hw
  exact Option.isSome_iff_exists.1 ((opcodeOf_isSome i).trans hm)

/-- An instruction is decoded from its opcode and operand bytes, whatever bytes come after them. -/
theorem decodeBytes_operandBytes {i : Instr} (hw : i.wellFormed c = true) (h : opcodeOf i = some op) (rest : List Byte) :
    decodeBytes c op ((operandBytes i ++ rest).getD 0 0) ((operandBytes i ++ rest).getD 1 0) = i := by
  simp only [Instr.wellFormed, Bool.and_eq_true] at hw
  obtain ⟨⟨-, hp⟩, hu⟩ := hw
  by_cases hi : ∃ o r, i = .undef o r
  · obtain ⟨o, r, rfl⟩ := hi
    cases h
    obtain ⟨b1, b2, rfl⟩ := exists_undefOperand hu
    have hd : undefinedOpcode c op = true := by
      simp only [Instr.undefOk, Bool.and_eq_true] at hu
      exact hu.1
    rw [decodeBytes_undefined hd]
    exact congrArg _ (undefOperand_of_bytes c op b1 b2 rest)
  · have hne : ∀ o r, i ≠ .undef o r := fun o r he => hi ⟨o, r, he⟩
    have hd : undefinedOpcode c op = false := by
      rw [undefinedOpcode_of_opcodeOf c h hne, hp]
      rfl
    rw [decodeBytes_defined hd, mapEntry_operandBytes h hne]

end DecodedInstruction

/-- The first bytes of a list, read one by one with 0 past its end. -/
theorem take_pair_getD {k : Nat} {l : List Byte} (hk : k ≤ 2) (hl : k ≤ l.length) :
    [l.getD 0 0, l.getD 1 0].take k = l.take k := by
  obtain _ | ⟨a, _ | ⟨b, l⟩⟩ := l
  · obtain rfl : k = 0 := Nat.le_zero.1 hl
    rfl
  · obtain _ | _ | k := k
    · rfl
    · rfl
    · exact absurd hl (by simp)
  · exact (List.take_append_of_le_length (l₁ := [a, b]) hk).symm

/-- Settles O1: the opcode finds the map's entry and the operand bytes, and the entry makes the instruction of them. -/
theorem decodeInvertsEncode : Obligations.DecodeInvertsEncode := by
  intro c i rest hw
  obtain ⟨op, hop⟩ := exists_opcodeOf hw
  have hd := decodeBytes_operandBytes hw hop rest
  have hlen : opcodeLength c op = (operandBytes i).length + 1 := by rw [opcodeLength_eq c op, hd]
  rw [encode, hop, List.cons_append, decode_cons (by simp [hlen]), hd, hlen, Nat.add_sub_cancel, List.drop_left]

/-- Settles O2: what is decoded has the first byte as its opcode and the bytes it consumes after it as operand bytes. -/
theorem encodeInvertsDecode : Obligations.EncodeInvertsDecode := by
  intro c bytes i rest h
  cases bytes with
  | nil => cases h
  | cons op tail =>
    obtain ⟨k, hk, hlen⟩ := exists_opcodeLength c op
    by_cases hl : opcodeLength c op ≤ tail.length + 1
    · rw [decode_cons hl] at h
      cases h
      refine ⟨decodeBytes_wellFormed c op _ _, ?_⟩
      rw [encode_decodeBytes, take_pair_getD (by omega) (by omega), List.cons_append, List.take_append_drop]
    · rw [decode, if_pos (by omega)] at h
      cases h

/-- Settles O3: two bytes after the opcode are enough for any length. -/
theorem everyOpcodeByteDecodes : Obligations.EveryOpcodeByteDecodes := by
  intro c op b1 b2 rest
  obtain ⟨k, hk, hlen⟩ := exists_opcodeLength c op
  refine ⟨decodeBytes c op b1 b2, k + 1, ?_, decodeBytes_wellFormed c op b1 b2, by omega, by omega, ?_⟩
  · rw [decode_cons (by simp; omega), hlen]
    rfl
  · rw [encode_decodeBytes, hlen, List.take_succ_cons, Nat.add_sub_cancel]
    exact congrArg _ (List.take_append_of_le_length (l₁ := [b1, b2]) hk).symm

/-! ## The cycles of every defined instruction (30_encoding.md R136, R141) -/

/-- The cell with the penalty of decimal mode added. -/
def CycleCell.withDecimal : CycleCell → CycleCell
  | .n k => .d k
  | .p k => .pd k
  | cell => cell

/-- The cell of a reading instruction: the count of its mode, and `p` where the indexing can cross a page. -/
def readCell : Src → CycleCell
  | .mem (.abx _) | .mem (.aby _) => .p 4
  | .mem (.izy _) => .p 5
  | m => .n (readCycles m false)

/-- The cell of ASL, LSR, ROL and ROR. -/
def shiftCell : RmwMode → CycleCell
  | .abx _ => .p 6
  | m => .n (shiftCycles m false)

/-- The cell of JMP. -/
def jmpCell : JmpMode → CycleCell
  | .abs _ => .n 3
  | .ind _ | .iax _ => .n 6

/-- The cell of an instruction, told from its form; that it is the one the table has for its opcode is `cycleCell_eq`. -/
def formCell : Instr → CycleCell
  | .lda m | .ldx m | .ldy m | .cmp m | .cpx m | .cpy m | .and m | .ora m | .eor m | .bit m => readCell m
  | .adc m | .sbc m => (readCell m).withDecimal
  | .sta m | .stx m | .sty m | .stz m => .n (storeCycles m)
  | .inc m | .dec m => .n (incCycles m false)
  | .asl m | .lsr m | .rol m | .ror m => shiftCell m
  | .tsb m | .trb m => .n (testCycles m)
  | .rmb0 _ | .rmb1 _ | .rmb2 _ | .rmb3 _ | .rmb4 _ | .rmb5 _ | .rmb6 _ | .rmb7 _
  | .smb0 _ | .smb1 _ | .smb2 _ | .smb3 _ | .smb4 _ | .smb5 _ | .smb6 _ | .smb7 _ => .n 5
  | .bbr0 _ _ | .bbr1 _ _ | .bbr2 _ _ | .bbr3 _ _ | .bbr4 _ _ | .bbr5 _ _ | .bbr6 _ _ | .bbr7 _ _
  | .bbs0 _ _ | .bbs1 _ _ | .bbs2 _ _ | .bbs3 _ _ | .bbs4 _ _ | .bbs5 _ _ | .bbs6 _ _ | .bbs7 _ _ => .b 5
  | .bpl _ | .bmi _ | .bvc _ | .bvs _ | .bcc _ | .bcs _ | .bne _ | .beq _ => .b 2
  | .bra _ => .p 3
  | .jmp m => jmpCell m
  | .jsr _ | .rts | .rti => .n 6
  | .pha | .php | .phx | .phy => .n 3
  | .pla | .plp | .plx | .ply => .n 4
  | _ => .n 2

/-- The table of R141 has for the opcode of every defined instruction the cell of its form. -/
theorem cycleCell_eq {i : Instr} {op : Byte} (h : opcodeOf i = some op) (hb : ∀ t, i ≠ .brk t)
    (hu : ∀ o r, i ≠ .undef o r) :
    cycleCell op = formCell i := by
  cases i with
  | lda m | adc m | sbc m | cmp m | and m | ora m | eor m | ldx m | ldy m | bit m | cpx m | cpy m =>
    rcases m with _ | ⟨_ | _⟩ <;> cases h <;> rfl
  | sta m | stx m | sty m | stz m => cases m <;> cases h <;> rfl
  | inc m | dec m | asl m | lsr m | rol m | ror m | tsb m | trb m | jmp m =>
    cases m <;> dsimp only [opcodeOf, rmwOpcode, testOpcode, jmpOpcode] at h <;> cases h <;> rfl
  | brk t => exact absurd rfl (hb t)
  | undef o r => exact absurd rfl (hu o r)
  | _ => cases h; rfl

/-! ### What the forms charge -/

section Costs

variable {i : Instr} (s : State)

/-- An instruction with a memory operand and no branch crosses a page when its effective address does. -/
theorem crossesPage_memOperand {m : MemMode} (hb : branchOf i s = none) (hm : memOperand i = some m) :
    crossesPage i s = (resolve m s).crossed := by
  rw [crossesPage, hb, hm, resolve_crossed]
  dsimp only
  cases indexBase m s <;> rfl

/-- A reading instruction takes the cycles of its cell. -/
theorem readCell_cycles {m : Src} (hb : branchOf i s = none) (hm : ∀ mm, m = .mem mm → memOperand i = some mm) :
    (readCell m).base + penalty (readCell m) i s = readCycles m (load m s).crossed := by
  rcases m with n | m
  · rfl
  · have hc := crossesPage_memOperand s hb (hm m rfl)
    cases m with
    | abx w | aby w | izy z => exact congrArg (fun x => _ + Bool.toNat x) hc
    | _ => rfl

theorem withDecimal_cycles (m : Src) :
    (readCell m).withDecimal.base + penalty (readCell m).withDecimal i s
      = (readCell m).base + penalty (readCell m) i s + decimalPenalty s.p := by
  unfold readCell
  split <;> simp only [CycleCell.withDecimal, CycleCell.base, penalty, decimalPenalty] <;> omega

theorem shiftCell_cycles {m : RmwMode} (hb : branchOf i s = none) (hm : memOperand i = rmwMemMode m) :
    (shiftCell m).base + penalty (shiftCell m) i s
      = shiftCycles m (((rmwMemMode m).map fun mm => (resolve mm s).crossed).getD false) := by
  cases m with
  | abx w => exact congrArg (fun x => _ + Bool.toNat x) (crossesPage_memOperand s hb hm)
  | _ => rfl

theorem crossesPage_branch {taken : Bool} {next : Addr} {r : Byte} (h : branchOf i s = some (taken, next, r)) :
    crossesPage i s = crossed next (branchTarget next r) := by
  rw [crossesPage, h, crossed_eq_otherPage]
  rfl

theorem readInstr_costs (m : Src) (extra : Nat) {f : Byte → State → State}
    (hf : ∀ v t, (f v t).cycle = t.cycle ∧ (f v t).totalCycle = t.totalCycle) :
    Costs (readCycles m (load m s).crossed + extra) s (readInstr m extra f s) :=
  retire_costs s _ _ _ (by simp [hf]) (by simp [hf])

/-- A reading instruction without decimal mode. -/
theorem plainRead_costs {m : Src} (hb : branchOf i s = none) (hm : ∀ mm, m = .mem mm → memOperand i = some mm)
    {f : Byte → State → State} (hf : ∀ v t, (f v t).cycle = t.cycle ∧ (f v t).totalCycle = t.totalCycle) :
    Costs ((readCell m).base + penalty (readCell m) i s) s (readInstr m 0 f s) := by
  rw [readCell_cycles s hb hm]
  exact readInstr_costs s m 0 hf

/-- ADC and SBC, which take one more cycle in decimal mode. -/
theorem decimalRead_costs {m : Src} (hb : branchOf i s = none) (hm : ∀ mm, m = .mem mm → memOperand i = some mm)
    {f : Byte → State → State} (hf : ∀ v t, (f v t).cycle = t.cycle ∧ (f v t).totalCycle = t.totalCycle) :
    Costs ((readCell m).withDecimal.base + penalty (readCell m).withDecimal i s) s
      (readInstr m (decimalPenalty s.p) f s) := by
  rw [withDecimal_cycles, readCell_cycles s hb hm]
  exact readInstr_costs s m _ hf

theorem modifyInstr_costs (m : RmwMode) (cycles : RmwMode → Bool → Nat) (f : Byte → Flags → Byte × Flags) :
    Costs (cycles m (((rmwMemMode m).map fun mm => (resolve mm s).crossed).getD false)) s (modifyInstr m cycles f s) := by
  cases hm : rmwMemMode m with
  | none =>
    simp only [modifyInstr, hm]
    exact retire_costs s _ _ _ rfl rfl
  | some mm =>
    rw [modifyInstr_mem s hm]
    exact (modify_frame s _ _ _ _ _).cost

/-- A shift or rotate, which takes one more cycle when its address crosses a page. -/
theorem shift_costs {m : RmwMode} (f : Byte → Flags → Byte × Flags) (hb : branchOf i s = none)
    (hm : memOperand i = rmwMemMode m) :
    Costs ((shiftCell m).base + penalty (shiftCell m) i s) s (modifyInstr m shiftCycles f s) := by
  rw [shiftCell_cycles s hb hm]
  exact modifyInstr_costs s m shiftCycles f

theorem testInstr_costs (m : TestMode) (g : Byte → Byte → Byte) : Costs (testCycles m) s (testInstr m g s) :=
  retire_costs s _ _ _ (by simp) (by simp)

theorem bitModifyInstr_costs (z : Byte) (g : Byte → Byte) : Costs 5 s (bitModifyInstr z g s) :=
  retire_costs s _ _ _ (by simp) (by simp)

/-- A branch of the table's `b`. -/
theorem branch_costs {taken : Bool} {next : Addr} {r : Byte} (base : Nat) (h : branchOf i s = some (taken, next, r)) :
    Costs (base + penalty (.b base) i s) s (branch taken next r base s) := by
  have ht : takesBranch i s = taken := by rw [takesBranch, h]; rfl
  have hc := (branch_frame s taken next r base).2.cost
  rw [penalty, ht, crossesPage_branch s h]
  cases taken
  · exact hc
  · rw [if_pos rfl, ← Nat.add_assoc]
    exact hc

/-- BRA, always taken, has its taken branch's count in the table and the letter `p`. -/
theorem bra_costs (r : Byte) : Costs (3 + (crossesPage (.bra r) s).toNat) s (branchInstr true r s) := by
  rw [crossesPage_branch s rfl]
  exact (branch_frame s true (s.pc + 2) r 2).2.cost

/-- BBRn and BBSn read their byte from RAM, and branch on one bit of it. -/
theorem bitBranchInstr_eq (n : Nat) (want : Bool) (z r : Byte) :
    bitBranchInstr n want z r s
      = branch ((s.byteAt (s.bankOf (0#8 ++ z) false) z.toNat).getLsbD n == want) (s.pc + 3) r 5 s := by
  rw [bitBranchInstr, busRead_ram s (zeroPage_lt z), zeroPage_toNat]
  rfl

theorem bitBranchInstr_costs {n : Nat} {want : Bool} {z r : Byte}
    (h : branchOf i s
      = some ((s.byteAt (s.bankOf (0#8 ++ z) false) z.toNat).getLsbD n == want, s.pc + 3, r)) :
    Costs (5 + penalty (.b 5) i s) s (bitBranchInstr n want z r s) := by
  rw [bitBranchInstr_eq]
  exact branch_costs s 5 h

theorem impliedInstr_costs (k : Nat) {f : State → State} (hc : (f s).cycle = s.cycle)
    (ht : (f s).totalCycle = s.totalCycle) : Costs k s (impliedInstr k f s) :=
  retire_costs s _ _ _ hc ht

theorem rti_costs : Costs 6 s ((returnFromInterrupt s).charge 6) :=
  ⟨by simp [returnFromInterrupt], by simp [returnFromInterrupt]⟩

theorem execJmp_costs (m : JmpMode) :
    ∃ t, execJmp m s = .next t ∧ Costs ((jmpCell m).base + penalty (jmpCell m) (.jmp m) s) s t := by
  cases m with
  | abs w => exact ⟨_, rfl, retire_costs s _ _ _ rfl rfl⟩
  | ind w | iax w => exact ⟨_, rfl, retire_costs s _ _ _ (by simp) (by simp)⟩

end Costs

/-- Every instruction but the trap opcode and the undefined ones charges its cell and the penalties of the cell's letters. -/
theorem exec_costs {i : Instr} (s : State) (hb : ∀ t, i ≠ .brk t) (hu : ∀ o r, i ≠ .undef o r) :
    ∃ t, exec i s = .next t ∧ Costs ((formCell i).base + penalty (formCell i) i s) s t := by
  cases i with
  | lda m | ldx m | ldy m | cmp m | cpx m | cpy m | and m | ora m | eor m | bit m =>
    exact ⟨_, rfl, plainRead_costs s rfl (fun _ h => h ▸ rfl) fun _ _ => ⟨rfl, rfl⟩⟩
  | adc m | sbc m => exact ⟨_, rfl, decimalRead_costs s rfl (fun _ h => h ▸ rfl) fun _ _ => ⟨rfl, rfl⟩⟩
  | sta m | stx m | sty m | stz m => exact ⟨_, rfl, (storeInstr_frame s m _).cost⟩
  | inc m | dec m => exact ⟨_, rfl, modifyInstr_costs s m incCycles _⟩
  | asl m | lsr m | rol m | ror m => exact ⟨_, rfl, shift_costs s _ rfl rfl⟩
  | tsb m | trb m => exact ⟨_, rfl, testInstr_costs s m _⟩
  | rmb0 z | rmb1 z | rmb2 z | rmb3 z | rmb4 z | rmb5 z | rmb6 z | rmb7 z
  | smb0 z | smb1 z | smb2 z | smb3 z | smb4 z | smb5 z | smb6 z | smb7 z => exact ⟨_, rfl, bitModifyInstr_costs s z _⟩
  | bbr0 z r | bbr1 z r | bbr2 z r | bbr3 z r | bbr4 z r | bbr5 z r | bbr6 z r | bbr7 z r =>
    exact ⟨_, rfl, bitBranchInstr_costs s (by rw [beq_false]; rfl)⟩
  | bbs0 z r | bbs1 z r | bbs2 z r | bbs3 z r | bbs4 z r | bbs5 z r | bbs6 z r | bbs7 z r =>
    exact ⟨_, rfl, bitBranchInstr_costs s (by rw [beq_true]; rfl)⟩
  | bpl r | bmi r | bvc r | bvs r | bcc r | bcs r | bne r | beq r => exact ⟨_, rfl, branch_costs s 2 rfl⟩
  | bra r => exact ⟨_, rfl, bra_costs s r⟩
  | pha | php | phx | phy => exact ⟨_, rfl, impliedInstr_costs s 3 (push_cycle s _) (push_totalCycle s _)⟩
  | tax | tay | txa | tya | tsx | txs | inx | iny | dex | dey | clc | sec | cli | sei | cld | sed | clv | nop =>
    exact ⟨_, rfl, impliedInstr_costs s 2 rfl rfl⟩
  | pla | plx | ply | plp => exact ⟨_, rfl, impliedInstr_costs s 4 (busRead_cycle _ _) (busRead_totalCycle _ _)⟩
  | jmp m => exact execJmp_costs s m
  | jsr w => exact ⟨_, rfl, retire_costs s _ _ _ (by simp) (by simp)⟩
  | rts => exact ⟨_, rfl, retire_costs s _ _ _ (by simp) (by simp)⟩
  | rti => exact ⟨_, rfl, rti_costs s⟩
  | brk t => exact absurd rfl (hb t)
  | undef o r => exact absurd rfl (hu o r)

/-- Settles O15: the table has for each opcode the cell of its form, and each form charges its cell. -/
theorem baseCyclesOfTheTable : Obligations.BaseCyclesOfTheTable := by
  intro i op s _ hop hb hu
  rw [cycleCell_eq hop hb hu]
  exact exec_costs s hb hu

/-! ## Effective addresses and operands (30_encoding.md R135, 40_load_store.md R197) -/

theorem setWidth_eq_append (b : Byte) : b.setWidth 16 = 0#8 ++ b := BitVec.setWidth_eq_append (by decide)

theorem read16zp_value (s : State) (z : Byte) :
    (read16zp z s).1 = s.byteAt (s.bankOf (0#8 ++ (z + 1)) false) (z + 1).toNat
      ++ s.byteAt (s.bankOf (0#8 ++ z) false) z.toNat := by
  rw [read16zp_eq]
  rfl

/-- Settles O14: `resolve` mode by mode, crossing told by pages, and the one bus read of a memory operand. -/
theorem operandAddressing : Obligations.OperandAddressing := by
  intro s zz w
  have hr := read16zp_value s
  have hw := setWidth_eq_append
  refine ⟨rfl, rfl, rfl, rfl, ?abx, ?aby, ?izx, ?izy, ?izp, ?crossAbx, ?crossAby, ?crossIzy, resolve_st s,
    fun _ => ⟨rfl, rfl⟩, fun m => ?loadMem, fun m hm => ?loadRam⟩
  case abx | aby => simp only [resolve, hw]
  case izx | izp => exact hr _
  case izy => simp only [resolve, hr, hw]
  case crossAbx | crossAby => simp only [resolve, crossed_eq_otherPage, otherPage, hw, decide_eq_true_iff, ne_comm]
  case crossIzy => simp only [resolve, crossed_eq_otherPage, otherPage, hw, hr, decide_eq_true_iff, ne_comm]
  case loadMem =>
    rw [load_mem]
    exact ⟨rfl, rfl, rfl⟩
  case loadRam =>
    rw [load_mem, busRead_ram s hm]
    exact ⟨rfl, rfl⟩

end Sys2Proof.Machine

/-! Proofs of the family 40_load_store.md: a step runs the decoded instruction (R196), the loads (R200 to R202) and the
stores (R203 to R206). -/

namespace Sys2Proof.Machine

/-! ## The decoded instruction is the one fetched (40_load_store.md R196) -/

/-- A well-formed instruction is told by its encoding. -/
theorem encode_injective {c : Params} {i j : Instr} (hi : i.wellFormed c = true) (hj : j.wellFormed c = true)
    (h : encode i = encode j) : i = j := by
  have h' := decodeInvertsEncode c i [] hi
  rw [h, decodeInvertsEncode c j [] hj] at h'
  cases h'
  rfl

/-- Only the bytes that belong to the instruction matter to the decoder (30_encoding.md R131). -/
theorem decodeBytes_congr {c : Params} {op a1 a2 b1 b2 : Byte}
    (h : [a1, a2].take (opcodeLength c op - 1) = [b1, b2].take (opcodeLength c op - 1)) :
    decodeBytes c op a1 a2 = decodeBytes c op b1 b2 :=
  encode_injective (decodeBytes_wellFormed c op a1 a2) (decodeBytes_wellFormed c op b1 b2)
    (by rw [encode_decodeBytes, encode_decodeBytes, h])

/-- A byte beyond the instruction's length may be taken as 0. -/
theorem decodeBytes_beyond_length (c : Params) (op b1 b2 : Byte) :
    decodeBytes c op (if 2 ≤ opcodeLength c op then b1 else 0) (if 3 ≤ opcodeLength c op then b2 else 0)
      = decodeBytes c op b1 b2 := by
  obtain ⟨k, hk, hlen⟩ := exists_opcodeLength c op
  refine decodeBytes_congr ?_
  rw [hlen]
  match k, hk with
  | 0, _ | 1, _ | 2, _ => rfl

/-- Three bytes always begin with an instruction. -/
theorem decode_three (c : Params) (op b1 b2 : Byte) :
    decode c [op, b1, b2] = .decoded (decodeBytes c op b1 b2) ([b1, b2].drop (opcodeLength c op - 1)) := by
  obtain ⟨k, hk, hlen⟩ := exists_opcodeLength c op
  exact decode_cons (by rw [hlen]; exact Nat.succ_le_succ hk)

section Fetch

variable {s : State}

theorem fetchByte1_quiet {q : Addr} (h : (busRead (q + 1) s).2 = s) (c : Params) (op : Byte) :
    fetchByte1 c op q s = (if 2 ≤ opcodeLength c op then (busRead (q + 1) s).1 else 0, s) := by
  unfold fetchByte1
  split
  · exact Prod.ext rfl h
  · rfl

theorem fetchByte2_quiet {q : Addr} (h : (busRead (q + 2) s).2 = s) (c : Params) (op : Byte) :
    fetchByte2 c op q s = (if 3 ≤ opcodeLength c op then (busRead (q + 2) s).1 else 0, s) := by
  unfold fetchByte2
  split
  · exact Prod.ext rfl h
  · rfl

/-- A fetch whose three reads have no side effect gives what the three bytes decode to, and changes nothing. -/
theorem fetch_quiet (h0 : (busRead s.pc s).2 = s) (h1 : (busRead (s.pc + 1) s).2 = s)
    (h2 : (busRead (s.pc + 2) s).2 = s) :
    fetch s = (decodeBytes s.cfg (busRead s.pc s).1 (busRead (s.pc + 1) s).1 (busRead (s.pc + 2) s).1, s) := by
  simp only [fetch, h0, fetchByte1_quiet h1, fetchByte2_quiet h2, decodeBytes_beyond_length]

/-- With no interrupt to take, the processor runs one instruction (60_exceptions.md R410). -/
theorem cpuStep_noInterrupt (hn : s.nmiPending = false) (hi : s.irqLine = false ∨ s.p.i = true) :
    cpuStep s = runInstr s := by
  have hq : (s.irqLine && !s.p.i) = false := by obtain h | h := hi <;> simp [h]
  rw [cpuStep, hn, hq]
  rfl

end Fetch

/-- Every instruction answers a next state: by `exec_storesByRule` all but a trap call, and that one answers what the
callback leaves. -/
theorem exec_next (i : Instr) (s : State) : ∃ t, exec i s = .next t := by
  cases hc : callsTrap i s with
  | false =>
    obtain ⟨t, ht, -⟩ := exec_storesByRule i s hc
    exact ⟨t, ht⟩
  | true =>
    cases i with
    | brk n =>
      obtain ⟨handler, hh⟩ := Option.isSome_iff_exists.1 hc
      change ∃ t, execBrk n s = .next t
      rw [execBrk, hh]
      exact ⟨_, rfl⟩
    | _ => cases hc

/-- Settles O6: outside the I/O page the fetch has no side effect, so it gives the decoded instruction at this state. -/
theorem stepRunsDecodedInstruction : Obligations.StepRunsDecodedInstruction := by
  intro s i rest hn hi hout hd
  have h0 : (busRead s.pc s).2 = s := busRead_quiet s (by simpa using hout 0)
  have h1 : (busRead (s.pc + 1) s).2 = s := busRead_quiet s (hout 1)
  have h2 : (busRead (s.pc + 2) s).2 = s := busRead_quiet s (hout 2)
  rw [decode_three] at hd
  cases hd
  obtain ⟨t, ht⟩ := exec_next _ s
  refine ⟨decodeBytes_wellFormed _ _ _ _, t, ht, ?_⟩
  rw [step, iteration, cpuStep_noInterrupt hn hi, runInstr, fetch_quiet h0 h1 h2, ht]
  rfl

/-! ## Loads and stores (40_load_store.md R200 to R206) -/

section Loads

variable (s : State)

/-- Setting registers is quiet: `setA`, `setX`, `setY`, `setSp`, `setP` and their like leave all the rest. -/
theorem registers_quiet {a x y sp : Byte} {p : Flags} :
    QuietFrame s.pc 0 s { s with a := a, x := x, y := y, sp := sp, p := p } :=
  ⟨rfl, ⟨by simp, by simp⟩, ⟨rfl, rfl⟩, ⟨rfl, rfl, rfl, rfl, rfl, rfl⟩, ⟨rfl, rfl, rfl, rfl, rfl, rfl, rfl, rfl⟩⟩

theorem load_regs (m : Src) : (load m s).st.regs = s.regs := by simp [State.regs]

/-- A reading instruction whose effect is on registers alone, `g` of the operand: the registers of `g`, and the frame of
the read. -/
theorem readInstr_result (m : Src) (extra : Nat) (g : Byte → Regs → Regs) {f : Byte → State → State}
    (hf : ∀ v t, QuietFrame t.pc 0 t (f v t)) (hg : ∀ v t, (f v t).regs = g v t.regs) :
    (readInstr m extra f s).regs = g (load m s).value s.regs ∧ ReadFrame m extra s (readInstr m extra f s) :=
  ⟨(hg _ _).trans (by rw [load_regs]),
    readInstr_frame s m extra f (fun v t => (hf v t).ram) (fun v t => (hf v t).devices) (fun v t => (hf v t).control)
      fun v t => ⟨by simp [(hf v t).cost.cycle], by simp [(hf v t).cost.totalCycle]⟩⟩

end Loads

/-- Settles O16: each load is a reading instruction that sets its register and N and Z from the operand. -/
theorem loadResults : Obligations.LoadResults := by
  intro m s
  refine ⟨⟨_, rfl, ?lda⟩, ⟨_, rfl, ?ldx⟩, ⟨_, rfl, ?ldy⟩, fun zz w => ⟨rfl, rfl, rfl⟩⟩
  case lda =>
    exact readInstr_result s m 0 (fun v r => { r with a := v, p := setNZ v r.p }) (fun _ t => registers_quiet t)
      fun _ _ => rfl
  case ldx =>
    exact readInstr_result s m 0 (fun v r => { r with x := v, p := setNZ v r.p }) (fun _ t => registers_quiet t)
      fun _ _ => rfl
  case ldy =>
    exact readInstr_result s m 0 (fun v r => { r with y := v, p := setNZ v r.p }) (fun _ t => registers_quiet t)
      fun _ _ => rfl

/-- Settles O17: each store is the storing form with its register's byte. -/
theorem storeResults : Obligations.StoreResults := by
  intro m s
  exact ⟨⟨_, rfl, storeInstr_frame s m s.a⟩, ⟨_, rfl, storeInstr_frame s m s.x⟩, ⟨_, rfl, storeInstr_frame s m s.y⟩,
    ⟨_, rfl, storeInstr_frame s m 0#8⟩, fun zz w => ⟨rfl, rfl, rfl, rfl⟩⟩

end Sys2Proof.Machine

/-! Proofs of the family 41_transfer_stack.md: the transfers (R220 to R225), the pushes (R226 to R229) and the pulls (R230
to R233). -/

namespace Sys2Proof.Machine

/-! ## The register-only form, the push and the pull -/

section ImpliedForms

variable (s : State)

@[simp] theorem impliedInstr_regs (k : Nat) (f : State → State) : (impliedInstr k f s).regs = (f s).regs := rfl

/-- A register-only instruction whose effect is on registers alone. -/
theorem impliedInstr_quiet (k : Nat) {f : State → State} (hf : QuietFrame s.pc 0 s (f s)) :
    QuietFrame (s.pc + 1) k s (impliedInstr k f s) :=
  implied_frame s k f hf.ram hf.devices hf.control (by simp [hf.cost.cycle]) (by simp [hf.cost.totalCycle])

theorem push_regs (v : Byte) : (push v s).regs = { s.regs with sp := s.sp - 1 } := by simp [State.regs]

/-- A pushing instruction, `v` the byte it pushes. -/
theorem pushInstr_frame (k : Nat) (v : State → Byte) :
    PushFrame (v s) k s (impliedInstr k (fun t => push (v t) t) s) where
  regs := push_regs s (v s)
  pc := by simp [impliedInstr]
  cost := impliedInstr_costs s k (push_cycle s _) (push_totalCycle s _)
  stored := (push_stored s (v s)).mono ⟨rfl, rfl⟩
  devices := (push_devices s (v s)).trans ⟨rfl, rfl, rfl, rfl, rfl, rfl⟩
  control := (push_control s (v s)).trans ⟨rfl, rfl, rfl, rfl, rfl, rfl, rfl, rfl⟩

/-- Bits 5 and 4 of the byte PHP pushes are both set (10_state.md R35). -/
theorem packP_true (f : Flags) :
    packP f true = BitVec.ofBool f.n ++ BitVec.ofBool f.v ++ 0b11#2 ++ BitVec.ofBool f.d ++ BitVec.ofBool f.i
      ++ BitVec.ofBool f.z ++ BitVec.ofBool f.c := by
  have bits : ∀ nv : BitVec 2, nv ++ 1#1 ++ BitVec.ofBool true = nv ++ 0b11#2 := by decide
  rw [packP, bits]

/-- The byte in the next stack slot, the one a pull gives. -/
theorem pull_byte : (pull s).1 = s.byteAt (s.bankOf (stackAddr (s.sp + 1)) false) (256 + (s.sp + 1).toNat) := by
  rw [pull_eq]
  rfl

theorem pullInto_eq (setReg : State → Byte → State) :
    pullInto setReg s = (setReg (s.setSp (s.sp + 1)) (pull s).1).setP (setNZ (pull s).1 s.p) := by
  rw [pullInto, pull_state]

end ImpliedForms

/-! ## Transfers, pushes and pulls (41_transfer_stack.md R220 to R233) -/

/-- Settles O18: a transfer is the register-only form, its effect on registers alone. -/
theorem transferResults : Obligations.TransferResults := by
  intro s
  refine ⟨⟨_, rfl, rfl, ?tax⟩, ⟨_, rfl, rfl, ?tay⟩, ⟨_, rfl, rfl, ?txa⟩, ⟨_, rfl, rfl, ?tya⟩, ⟨_, rfl, rfl, ?tsx⟩,
    ⟨_, rfl, rfl, ?txs⟩, rfl, rfl, rfl, rfl, rfl, rfl⟩
  case tax | tay | txa | tya | tsx | txs => exact impliedInstr_quiet s 2 (registers_quiet s)

/-- Settles O19: each push is the pushing form with its register's byte, PHP with the packed flags. -/
theorem pushResults : Obligations.PushResults := by
  intro s
  have php : PushFrame (packP s.p true) 3 s _ := pushInstr_frame s 3 fun t => packP t.p true
  rw [packP_true] at php
  exact ⟨⟨_, rfl, pushInstr_frame s 3 State.a⟩, ⟨_, rfl, php⟩, ⟨_, rfl, pushInstr_frame s 3 State.x⟩,
    ⟨_, rfl, pushInstr_frame s 3 State.y⟩, rfl, rfl, rfl, rfl⟩

/-- Settles O20: after the pull only registers change: S, the register pulled into, and flags from the byte pulled. -/
theorem pullResults : Obligations.PullResults := by
  intro s
  simp only [← pull_byte]
  refine ⟨⟨_, rfl, ?pla⟩, ⟨_, rfl, ?plx⟩, ⟨_, rfl, ?ply⟩, ⟨_, rfl, ?plp⟩, rfl, rfl, rfl, rfl⟩
  case pla | plx | ply =>
    rw [impliedInstr_regs]
    refine ⟨?_, impliedInstr_quiet s 4 ?_⟩ <;> rw [pullInto_eq]
    · rfl
    · exact registers_quiet s
  case plp =>
    rw [impliedInstr_regs]
    refine ⟨impliedInstr_quiet s 4 ?_, ?_⟩ <;> rw [pull_state]
    · exact registers_quiet s
    · rfl

end Sys2Proof.Machine

/-! Proofs of the family 42_arithmetic.md: addition and subtraction in both modes (R250 to R254), the compares (R255 to
R257), and increment and decrement (R258 to R263). -/

namespace Sys2Proof.Machine

/-! ## ADC and SBC as reading instructions

Both put a sum into A and its flags into P; `adcSum` and `sbcSum` select the sum by D. -/

/-- The registers after an addition or subtraction that gave `r`. -/
def Regs.withSum (regs : Regs) (r : Sum) : Regs := { regs with a := r.value, p := sumFlags r regs.p }

theorem a_p_of_withSum {s t : State} {r : Sum} (h : t.regs = s.regs.withSum r) :
    t.a = r.value ∧ t.p = sumFlags r s.p := ⟨congrArg Regs.a h, congrArg Regs.p h⟩

section Sums

variable (m : Src) (s : State)

theorem exec_adc : ∃ u, exec (.adc m) s = .next u ∧ ReadFrame m (decimalPenalty s.p) s u
    ∧ u.regs = s.regs.withSum (adcSum s.p s.a (load m s).value) := by
  obtain ⟨regs, frame⟩ := readInstr_result s m (decimalPenalty s.p) (fun v r => r.withSum (adcSum r.p r.a v))
    (fun _ t => registers_quiet t) fun _ _ => rfl
  exact ⟨_, rfl, frame, regs⟩

theorem exec_sbc : ∃ u, exec (.sbc m) s = .next u ∧ ReadFrame m (decimalPenalty s.p) s u
    ∧ u.regs = s.regs.withSum (sbcSum s.p s.a (load m s).value) := by
  obtain ⟨regs, frame⟩ := readInstr_result s m (decimalPenalty s.p) (fun v r => r.withSum (sbcSum r.p r.a v))
    (fun _ t => registers_quiet t) fun _ _ => rfl
  exact ⟨_, rfl, frame, regs⟩

end Sums

section Modes

variable {f : Flags} (a m : Byte)

theorem adcSum_binary (h : f.d = false) : adcSum f a m = addBinary a m f.c := by simp [adcSum, h]

theorem adcSum_decimal (h : f.d = true) : adcSum f a m = addDecimal a m f.c := by simp [adcSum, h]

theorem sbcSum_binary (h : f.d = false) : sbcSum f a m = subBinary a m f.c := by simp [sbcSum, h]

theorem sbcSum_decimal (h : f.d = true) : sbcSum f a m = subDecimal a m f.c := by simp [sbcSum, h]

/-- V of a subtraction is the binary one in either mode (R251). -/
theorem sbcSum_v : (sbcSum f a m).v = (subBinary a m f.c).v := by
  cases h : f.d
  · rw [sbcSum_binary a m h]
  · rw [sbcSum_decimal a m h]; rfl

end Modes

/-! ## Overflow is signed overflow (42_arithmetic.md R254) -/

/-- Masking with `$80` keeps bit 7 alone. -/
theorem and_signMask (x y : Byte) : (x &&& y &&& 0x80#8 != 0#8) = (x.msb && y.msb) := by
  rw [show 0x80#8 = BitVec.twoPow 8 7 from rfl, BitVec.and_twoPow, ← BitVec.msb_and, BitVec.msb_eq_getLsbD_last]
  cases (x &&& y).getLsbD 7 <;> rfl

theorem msb_xor_iff (x y : Byte) : (x ^^^ y).msb = true ↔ ¬(x.toInt < 0 ↔ y.toInt < 0) := by
  rw [BitVec.msb_xor, BitVec.msb_eq_toInt, BitVec.msb_eq_toInt, bne_iff_ne, ne_eq, decide_eq_decide]

/-- The signed value of a byte is the one in −128..+127 that its unsigned value has modulo 256. -/
theorem toInt_range (x : Byte) : -128 ≤ x.toInt ∧ x.toInt ≤ 127 ∧ x.toInt % 256 = x.toNat :=
  ⟨x.le_toInt, Int.le_of_lt_add_one x.toInt_lt, by
    rw [BitVec.toInt_eq_toNat_cond]
    split <;> omega⟩

/-- The result has a sign that neither operand has exactly when the signed sum is out of range. -/
theorem addBinary_v (a m : Byte) (c : Bool) :
    (addBinary a m c).v = decide (a.toInt + m.toInt + c.toNat < -128 ∨ a.toInt + m.toInt + c.toNat > 127) := by
  have hc := c.toNat_le
  have result : (addBinary a m c).value.toNat = (a.toNat + m.toNat + c.toNat) % 256 := BitVec.toNat_ofNat _ 8
  have mask : (addBinary a m c).v = _ := and_signMask (a ^^^ (addBinary a m c).value) (m ^^^ (addBinary a m c).value)
  have ha := toInt_range a
  have hm := toInt_range m
  have hr := toInt_range (addBinary a m c).value
  rw [mask, Bool.eq_iff_iff, Bool.and_eq_true, msb_xor_iff, msb_xor_iff, decide_eq_true_iff]
  omega

/-- The operands differ in sign and the result does not have the sign of A exactly when the signed difference is out of
range. -/
theorem subBinary_v (a m : Byte) (c : Bool) :
    (subBinary a m c).v
      = decide (a.toInt - m.toInt - (1 - c.toNat) < -128 ∨ a.toInt - m.toInt - (1 - c.toNat) > 127) := by
  have hc := c.toNat_le
  have result : ((subBinary a m c).value.toNat : Int) = (a.toNat - m.toNat - (1 - c.toNat)) % 256 := by
    simp only [subBinary, BitVec.toNat_ofInt]
    omega
  have mask : (subBinary a m c).v = _ := and_signMask (a ^^^ m) (a ^^^ (subBinary a m c).value)
  have ha := toInt_range a
  have hm := toInt_range m
  have hr := toInt_range (subBinary a m c).value
  rw [mask, Bool.eq_iff_iff, Bool.and_eq_true, msb_xor_iff, msb_xor_iff, decide_eq_true_iff]
  omega

/-- Settles O23: V is the sign test of R250's and R251's masks, and a subtraction has the binary V in either mode. -/
theorem overflowIsSigned : Obligations.OverflowIsSigned := by
  intro m s
  obtain ⟨t, ht, -, sum⟩ := exec_adc m s
  obtain ⟨u, hu, -, difference⟩ := exec_sbc m s
  refine ⟨fun hd => ⟨t, ht, ?adc⟩, u, hu, ?sbc⟩
  case adc =>
    rw [adcSum_binary _ _ hd] at sum
    rw [(a_p_of_withSum sum).2]
    exact addBinary_v _ _ _
  case sbc =>
    rw [(a_p_of_withSum difference).2]
    exact (sbcSum_v _ _).trans (subBinary_v _ _ _)

/-! ## Decimal mode on packed BCD (42_arithmetic.md R252, R253)

Digit by digit: a sum of two digits and a carry is `10 * carry + digit`, a difference `digit - 10 * borrow`, and the
corrections of R252 and R253 turn each ten carried or borrowed into a sixteen. -/

theorem and_lowDigit (b : Byte) : (b &&& 0x0F#8).toNat = b.toNat % 16 := Nat.and_two_pow_sub_one_eq_mod b.toNat 4

theorem and_highDigit : ∀ b : Byte, (b &&& 0xF0#8).toNat = b.toNat / 16 * 16 := by decide

/-- Both digits of the byte are decimal. -/
def IsBcd (b : Byte) : Prop := b.toNat % 16 < 10 ∧ b.toNat / 16 < 10

/-- The two-digit number of a packed BCD byte. -/
def bcdValue (b : Byte) : Nat := b.toNat / 16 * 10 + b.toNat % 16

theorem bcd_of_digits {b : Byte} {h l : Nat} (hh : h < 10) (hl : l < 10) (hb : b.toNat = 16 * h + l) :
    IsBcd b ∧ bcdValue b = 10 * h + l := by
  unfold IsBcd bcdValue
  omega

theorem exists_digit_carry {n : Nat} (h : n < 20) : ∃ k d : Nat, (k = 0 ∨ k = 1) ∧ d < 10 ∧ n = 10 * k + d :=
  ⟨n / 10, n % 10, by omega, by omega, by omega⟩

theorem exists_digit_borrow {n : Int} (h : -10 ≤ n) (h' : n < 10) :
    ∃ k d : Nat, (k = 0 ∨ k = 1) ∧ d < 10 ∧ n = d - 10 * k :=
  ⟨(-(n / 10)).toNat, (n % 10).toNat, by omega, by omega, by omega⟩

section Digits

variable {a m : Byte} {c : Bool} {j k h l : Nat}

/-- Decimal addition by digits: `l` with carry `k`, then `h` with carry `j`. -/
theorem addDecimal_digits (hj : j = 0 ∨ j = 1) (hk : k = 0 ∨ k = 1) (hh : h < 10) (hl : l < 10)
    (low : a.toNat % 16 + m.toNat % 16 + c.toNat = 10 * k + l) (high : a.toNat / 16 + m.toNat / 16 + k = 10 * j + h) :
    (addDecimal a m c).value.toNat = 16 * h + l ∧ (addDecimal a m c).c = decide (j = 1) := by
  have digit : decimalLow a m c = 16 * k + l := by
    simp only [decimalLow, and_lowDigit, low]
    split <;> omega
  have sum : a.toNat / 16 * 16 + m.toNat / 16 * 16 + (16 * k + l) = 160 * j + 16 * h + l := by omega
  simp only [addDecimal, and_highDigit, digit, sum, BitVec.toNat_ofNat, decide_eq_decide]
  split <;> omega

/-- Decimal subtraction by digits: `l` with borrow `k`, then `h` with borrow `j`. -/
theorem subDecimal_digits (hj : j = 0 ∨ j = 1) (hk : k = 0 ∨ k = 1) (hh : h < 10) (hl : l < 10)
    (low : (a.toNat % 16 : Nat) - (m.toNat % 16 : Nat) + (c.toNat : Int) - 1 = l - 10 * k)
    (high : (a.toNat / 16 : Nat) - (m.toNat / 16 : Nat) - (k : Int) = h - 10 * j) :
    (subDecimal a m c).value.toNat = 16 * h + l ∧ (subDecimal a m c).c = decide (j = 0) := by
  have difference : (a.toNat : Int) - m.toNat + c.toNat - 1 = 16 * h + l + 6 * k - 160 * j := by omega
  have borrow : (subDecimal a m c).c = decide (j = 0) := by
    simp only [subDecimal, subBinary, decide_eq_decide]
    omega
  refine ⟨?_, borrow⟩
  simp only [subDecimal, and_lowDigit, low, difference, BitVec.toNat_ofInt]
  -- What is left is about the digits alone.
  clear low high difference borrow
  split <;> split <;> omega

theorem addDecimal_bcd (ha : IsBcd a) (hm : IsBcd m) :
    IsBcd (addDecimal a m c).value
      ∧ bcdValue (addDecimal a m c).value = (bcdValue a + bcdValue m + c.toNat) % 100
      ∧ (addDecimal a m c).c = decide (bcdValue a + bcdValue m + c.toNat ≥ 100) := by
  have hc := c.toNat_le
  obtain ⟨ha0, ha1⟩ := ha
  obtain ⟨hm0, hm1⟩ := hm
  obtain ⟨k, l, hk, hl, low⟩ := exists_digit_carry (n := a.toNat % 16 + m.toNat % 16 + c.toNat) (by omega)
  obtain ⟨j, h, hj, hh, high⟩ := exists_digit_carry (n := a.toNat / 16 + m.toNat / 16 + k) (by omega)
  have sum : bcdValue a + bcdValue m + c.toNat = 100 * j + (10 * h + l) := by
    unfold bcdValue
    omega
  obtain ⟨value, carry⟩ := addDecimal_digits hj hk hh hl low high
  obtain ⟨isBcd, number⟩ := bcd_of_digits hh hl value
  -- What is left is about the digits alone.
  clear low high
  rw [number, carry, sum, decide_eq_decide]
  exact ⟨isBcd, by omega, by omega⟩

theorem subDecimal_bcd (ha : IsBcd a) (hm : IsBcd m) :
    IsBcd (subDecimal a m c).value
      ∧ bcdValue (subDecimal a m c).value = (bcdValue a + 100 + c.toNat - bcdValue m - 1) % 100
      ∧ (subDecimal a m c).c = decide (bcdValue a + c.toNat ≥ bcdValue m + 1) := by
  have hc := c.toNat_le
  obtain ⟨ha0, ha1⟩ := ha
  obtain ⟨hm0, hm1⟩ := hm
  obtain ⟨k, l, hk, hl, low⟩ := exists_digit_borrow
    (n := (a.toNat % 16 : Nat) - (m.toNat % 16 : Nat) + c.toNat - 1) (by omega) (by omega)
  obtain ⟨j, h, hj, hh, high⟩ := exists_digit_borrow
    (n := (a.toNat / 16 : Nat) - (m.toNat / 16 : Nat) - k) (by omega) (by omega)
  have difference : (bcdValue a : Int) - bcdValue m + c.toNat - 1 = 10 * h + l - 100 * j := by
    unfold bcdValue
    omega
  obtain ⟨value, borrow⟩ := subDecimal_digits hj hk hh hl low high
  obtain ⟨isBcd, number⟩ := bcd_of_digits hh hl value
  rw [number, borrow, decide_eq_decide]
  exact ⟨isBcd, by omega, by omega⟩

end Digits

/-- Settles O24: with D set the sums are the decimal ones, and these keep to packed BCD digit by digit. -/
theorem decimalModeOnBcd : Obligations.DecimalModeOnBcd := by
  intro m s v bcd val c hd ha hv
  obtain ⟨t, ht, -, sum⟩ := exec_adc m s
  obtain ⟨u, hu, -, difference⟩ := exec_sbc m s
  rw [adcSum_decimal _ _ hd] at sum
  rw [sbcSum_decimal _ _ hd] at difference
  obtain ⟨ta, tp⟩ := a_p_of_withSum sum
  obtain ⟨ua, up⟩ := a_p_of_withSum difference
  refine ⟨⟨t, ht, ?adc⟩, u, hu, ?sbc⟩
  case adc =>
    rw [ta, tp]
    exact addDecimal_bcd ha hv
  case sbc =>
    rw [ua, up]
    exact subDecimal_bcd ha hv

/-! ## The results of ADC and SBC (42_arithmetic.md R250 to R253) -/

/-- Settles O21: in either mode the result is the sum `adcSum` selects. -/
theorem adcResult : Obligations.AdcResult := by
  intro m s
  obtain ⟨u, hu, frame, regs⟩ := exec_adc m s
  refine ⟨fun hd => ?binary, fun hd => ?decimal, fun zz w => rfl⟩
  case binary =>
    rw [adcSum_binary _ _ hd] at regs
    rw [decimalPenalty, hd] at frame
    exact ⟨u, hu, frame, regs⟩
  case decimal =>
    rw [adcSum_decimal _ _ hd] at regs
    rw [decimalPenalty, hd] at frame
    exact ⟨u, hu, frame, regs⟩

/-- The difference of R253, `A - M + C - 1`, is the one of R251. -/
theorem subDecimal_value (a m : Byte) (c : Bool) :
    let al : Int := (a &&& 0x0F#8).toNat - (m &&& 0x0F#8).toNat + c.toNat - 1
    let t : Int := a.toNat - m.toNat - (1 - c.toNat)
    let t1 := if t < 0 then t - 0x60 else t
    (subDecimal a m c).value = BitVec.ofInt 8 (if al < 0 then t1 - 6 else t1) := by
  have borrow : (a.toNat : Int) - m.toNat + c.toNat - 1 = a.toNat - m.toNat - (1 - c.toNat) := by omega
  simp only [subDecimal, borrow]

/-- Settles O22: in either mode the result is the difference `sbcSum` selects; C and V are the binary ones in both. -/
theorem sbcResult : Obligations.SbcResult := by
  intro m s
  obtain ⟨u, hu, frame, regs⟩ := exec_sbc m s
  refine ⟨fun hd => ?binary, fun hd => ?decimal, fun zz w => rfl⟩
  case binary =>
    rw [sbcSum_binary _ _ hd] at regs
    rw [decimalPenalty, hd] at frame
    exact ⟨u, hu, frame, regs⟩
  case decimal =>
    rw [sbcSum_decimal _ _ hd, Regs.withSum, sumFlags, subDecimal_value] at regs
    rw [decimalPenalty, hd] at frame
    exact ⟨u, hu, frame, regs⟩

/-! ## Compares (42_arithmetic.md R255 to R257) -/

/-- Settles O25: each compare is a reading instruction that sets flags from its register and the operand. -/
theorem compareResults : Obligations.CompareResults := by
  intro m s
  refine ⟨⟨_, rfl, ?cmp⟩, ⟨_, rfl, ?cpx⟩, ⟨_, rfl, ?cpy⟩, fun zz w => ⟨rfl, rfl, rfl⟩⟩
  case cmp =>
    exact readInstr_result s m 0 (fun v r => { r with p := compareFlags r.a v r.p }) (fun _ t => registers_quiet t)
      fun _ _ => rfl
  case cpx =>
    exact readInstr_result s m 0 (fun v r => { r with p := compareFlags r.x v r.p }) (fun _ t => registers_quiet t)
      fun _ _ => rfl
  case cpy =>
    exact readInstr_result s m 0 (fun v r => { r with p := compareFlags r.y v r.p }) (fun _ t => registers_quiet t)
      fun _ _ => rfl

/-! ## Increment and decrement (42_arithmetic.md R258 to R263) -/

section ModifyingForm

variable (s : State) (cycles : RmwMode → Bool → Nat) (g : Byte → Flags → Byte × Flags)

/-- A modifying instruction of A: the accumulator and the flags that `g` gives, nothing else. -/
theorem modifyInstr_acc :
    (modifyInstr .acc cycles g s).regs = { s.regs with a := (g s.a s.p).1, p := (g s.a s.p).2 }
      ∧ QuietFrame (s.pc + 1) (cycles .acc false) s (modifyInstr .acc cycles g s) :=
  ⟨rfl, impliedInstr_quiet s (cycles .acc false) (f := fun t => (t.setA (g t.a t.p).1).setP (g t.a t.p).2)
    (registers_quiet s)⟩

/-- A modifying instruction of memory: the byte and the flags that `g` gives of the one byte read. -/
theorem modifyInstr_result {m : RmwMode} {mm : MemMode} (h : rmwMemMode m = some mm) :
    let q := (resolve mm s).addr
    let r := g (busRead q s).1 s.p
    (modifyInstr m cycles g s).regs = { s.regs with p := r.2 }
      ∧ ModifyFrame q r.1 (s.pc + rmwLength m) (cycles m (resolve mm s).crossed) s (modifyInstr m cycles g s) := by
  rw [modifyInstr_mem s h]
  exact ⟨by simp [State.regs], modify_frame s _ _ _ _ _⟩

end ModifyingForm

/-- Settles O26: INC and DEC are the modifying form of `incByte` and `decByte`; the others change registers only. -/
theorem incDecResults : Obligations.IncDecResults := by
  intro m s
  refine ⟨?acc, fun mm hm => ?memory, ⟨_, rfl, rfl, ?inx⟩, ⟨_, rfl, rfl, ?iny⟩, ⟨_, rfl, rfl, ?dex⟩,
    ⟨_, rfl, rfl, ?dey⟩, fun zz w => ⟨rfl, rfl⟩, rfl, rfl, rfl, rfl⟩
  case acc =>
    rintro rfl
    exact ⟨⟨_, rfl, modifyInstr_acc s incCycles incByte⟩, ⟨_, rfl, modifyInstr_acc s incCycles decByte⟩⟩
  case memory =>
    exact ⟨⟨_, rfl, modifyInstr_result s incCycles incByte hm⟩,
      ⟨_, rfl, modifyInstr_result s incCycles decByte hm⟩⟩
  case inx | iny | dex | dey => exact impliedInstr_quiet s 2 (registers_quiet s)

end Sys2Proof.Machine

/-! Proofs of the family 43_logic_shift.md: logic (R280 to R282), the bit tests (R283, R288, R289), and the shifts and
rotates (R284 to R287). -/

namespace Sys2Proof.Machine

/-! ## Logic (43_logic_shift.md R280 to R282) -/

/-- A reading instruction that combines A with its operand by `op`: the result in A, and N and Z from it. -/
theorem logicInstr_result (m : Src) (s : State) (op : Byte → Byte → Byte) :
    let r := op s.a (load m s).value
    let t := readInstr m 0 (fun v t => (t.setA (op t.a v)).setP (setNZ (op t.a v) t.p)) s
    t.regs = { s.regs with a := r, p := setNZ r s.p } ∧ ReadFrame m 0 s t :=
  readInstr_result s m 0 (fun v r => { r with a := op r.a v, p := setNZ (op r.a v) r.p }) (fun _ t => registers_quiet t)
    fun _ _ => rfl

/-- Settles O27: the three differ in the bitwise operation alone. -/
theorem logicResults : Obligations.LogicResults := by
  intro m s
  exact ⟨⟨_, rfl, logicInstr_result m s (· &&& ·)⟩, ⟨_, rfl, logicInstr_result m s (· ||| ·)⟩,
    ⟨_, rfl, logicInstr_result m s (· ^^^ ·)⟩, fun zz w => ⟨rfl, rfl, rfl⟩⟩

/-! ## Bit tests (43_logic_shift.md R283, R288, R289) -/

section BitTests

variable (s : State)

/-- BIT is a reading instruction that writes the flags `bitFlags` gives of A and the operand, and no other register. -/
theorem exec_bit (m : Src) : ∃ t, exec (.bit m) s = .next t
    ∧ t.regs = { s.regs with p := bitFlags m s.a (load m s).value s.p } ∧ ReadFrame m 0 s t :=
  ⟨_, rfl, readInstr_result s m 0 (fun v r => { r with p := bitFlags m r.a v r.p }) (fun _ t => registers_quiet t)
    fun _ _ => rfl⟩

/-- A test-and-modify instruction: Z from A and the one byte read, and `g` of them written back. -/
theorem testInstr_result (m : TestMode) (g : Byte → Byte → Byte) :
    let q := (resolve (testMemMode m) s).addr
    let v := (busRead q s).1
    (testInstr m g s).regs = { s.regs with p := { s.p with z := s.a &&& v == 0#8 } }
      ∧ ModifyFrame q (g s.a v) (s.pc + testLength m) (testCycles m) s (testInstr m g s) := by
  simp only [testInstr, resolve_st]
  exact ⟨by simp [State.regs], modify_frame s _ _ _ _ _⟩

end BitTests

/-- Settles O28: BIT by its operand form, TSB and TRB by the byte they write back. -/
theorem bitTestResults : Obligations.BitTestResults := by
  intro s
  refine ⟨fun nn => exec_bit s (.imm nn), fun m => ?memory, fun m => ⟨⟨_, rfl, ?tsb⟩, ⟨_, rfl, ?trb⟩⟩,
    fun zz w => ⟨rfl, rfl, rfl⟩⟩
  case memory =>
    have bit := exec_bit s (.mem m)
    rwa [congrArg Loaded.value (load_mem s m)] at bit
  case tsb => exact testInstr_result s m fun a v => v ||| a
  case trb => exact testInstr_result s m fun a v => v &&& ~~~a

/-! ## Shifts and rotates (43_logic_shift.md R284 to R287)

A shift by one drops the bit at one end and appends one at the other. -/

section ShiftedBytes

variable (v : Byte) (c : Bool)

theorem shiftLeft_one_eq_append : v <<< 1 = v.extractLsb' 0 7 ++ 0#1 := BitVec.shiftLeft_eq_concat_of_lt (by decide)

theorem ushiftRight_one_eq_append : v >>> 1 = 0#1 ++ v.extractLsb' 1 7 :=
  BitVec.ushiftRight_eq_extractLsb'_of_lt (by decide)

theorem rolValue_eq_append : rolValue v c = v.extractLsb' 0 7 ++ BitVec.ofBool c := by
  have carry : (BitVec.ofBool c).setWidth 8 = 0#7 ++ BitVec.ofBool c := BitVec.setWidth_eq_append (by decide)
  rw [rolValue, shiftLeft_one_eq_append, carry, BitVec.or_append, BitVec.or_zero, BitVec.zero_or]

theorem rorValue_eq_append : rorValue v c = BitVec.ofBool c ++ v.extractLsb' 1 7 := by
  have carry : (BitVec.ofBool c).setWidth 8 <<< 7 = BitVec.ofBool c ++ 0#7 := by cases c <;> rfl
  rw [rorValue, ushiftRight_one_eq_append, carry, BitVec.or_append, BitVec.or_zero, BitVec.zero_or]

end ShiftedBytes

/-- Settles O29: each is the modifying form of its byte operation, whose result is the appended one. -/
theorem shiftResults : Obligations.ShiftResults := by
  intro m s
  simp only [← shiftLeft_one_eq_append, ← ushiftRight_one_eq_append, ← rolValue_eq_append, ← rorValue_eq_append]
  refine ⟨?acc, fun mm hm => ?memory, fun zz w => ⟨rfl, rfl, rfl, rfl⟩⟩
  case acc =>
    rintro rfl
    exact ⟨⟨_, rfl, modifyInstr_acc s shiftCycles aslByte⟩, ⟨_, rfl, modifyInstr_acc s shiftCycles lsrByte⟩,
      ⟨_, rfl, modifyInstr_acc s shiftCycles rolByte⟩, ⟨_, rfl, modifyInstr_acc s shiftCycles rorByte⟩⟩
  case memory =>
    exact ⟨⟨_, rfl, modifyInstr_result s shiftCycles aslByte hm⟩,
      ⟨_, rfl, modifyInstr_result s shiftCycles lsrByte hm⟩,
      ⟨_, rfl, modifyInstr_result s shiftCycles rolByte hm⟩,
      ⟨_, rfl, modifyInstr_result s shiftCycles rorByte hm⟩⟩

end Sys2Proof.Machine

/-! Proofs of the family 44_bit_ops.md: the bit modifications (R300 to R318) and the bit branches (R320 to R338). -/

namespace Sys2Proof.Machine

/-! ## The bit forms

Both read their byte from zero-page RAM. -/

section BitForms

variable (s : State)

/-- A bit modification: `g` of the one byte read written back, and no register or flag. -/
theorem bitModifyInstr_result (z : Byte) (g : Byte → Byte) :
    (bitModifyInstr z g s).regs = s.regs
      ∧ ModifyFrame (0#8 ++ z) (g (s.byteAt (s.bankOf (0#8 ++ z) false) z.toNat)) (s.pc + 2) 5 s
          (bitModifyInstr z g s) := by
  have read : (busRead (zeroPage z) s).1 = s.byteAt (s.bankOf (zeroPage z) false) z.toNat := by
    rw [busRead_ram s (zeroPage_lt z), zeroPage_toNat, State.byteAt]
  rw [bitModifyInstr, read]
  exact ⟨by simp [State.regs], modify_frame s _ _ _ _ _⟩

/-- The cycles of a taken branch, by the pages of its target and of the next instruction (30_encoding.md R136). -/
theorem takenBranch_cycles (next target : Addr) (base : Nat) :
    base + 1 + (crossed next target).toNat
      = if target.toNat / 256 = next.toNat / 256 then base + 1 else base + 2 := by
  rw [crossed_eq_otherPage, otherPage]
  split
  case isTrue same => simp [same]
  case isFalse other => simp [Ne.symm other]

/-- A branch in the terms of R134 and R136: the signed offset from the next instruction, and one cycle more to another
page. -/
theorem branch_result (taken : Bool) (next : Addr) (r : Byte) (base : Nat) :
    let target := next + r.signExtend 16
    (branch taken next r base s).regs = s.regs
      ∧ QuietFrame (if taken then target else next)
          (if taken then (if target.toNat / 256 = next.toNat / 256 then base + 1 else base + 2) else base) s
          (branch taken next r base s) := by
  have frame := branch_frame s taken next r base
  rwa [takenBranch_cycles] at frame

end BitForms

/-! ## Bit modifications (44_bit_ops.md R300 to R318) -/

/-- Settles O30: each is the bit-modifying form; the mask of RMBn is all ones but bit n, that of SMBn bit n alone. -/
theorem bitModifyResults : Obligations.BitModifyResults := by
  intro zz s
  refine ⟨fun e he => ⟨⟨_, ?resets, bitModifyInstr_result s zz (· &&& ~~~(1#8 <<< e.2))⟩, ?resetWord⟩,
    fun e he => ⟨⟨_, ?sets, bitModifyInstr_result s zz (· ||| 1#8 <<< e.2)⟩, ?setWord⟩⟩
  case resets | sets => fin_cases he <;> dsimp only <;> rfl
  case resetWord | setWord => fin_cases he <;> rfl

/-! ## Bit branches (44_bit_ops.md R320 to R338) -/

/-- Settles O31: each is the bit-branching form on bit n, BBRn with the value 0 wanted and BBSn with 1. -/
theorem bitBranchResults : Obligations.BitBranchResults := by
  intro zz rr s
  refine ⟨fun e he => ?onReset, fun e he => ?onSet⟩
  case onReset =>
    have form : exec e.1 s = .next (bitBranchInstr e.2 false zz rr s) := by fin_cases he <;> rfl
    rw [bitBranchInstr_eq, beq_false] at form
    exact ⟨⟨_, form, branch_result s _ _ rr 5⟩, by fin_cases he <;> rfl⟩
  case onSet =>
    have form : exec e.1 s = .next (bitBranchInstr e.2 true zz rr s) := by fin_cases he <;> rfl
    rw [bitBranchInstr_eq, beq_true] at form
    exact ⟨⟨_, form, branch_result s _ _ rr 5⟩, by fin_cases he <;> rfl⟩

end Sys2Proof.Machine

/-! Proofs of the family 45_control.md: the branches (R340 to R349), the jumps (R350), subroutine call and return (R353,
R354), the return from an interrupt (R355) and the trap opcode (R366). -/

namespace Sys2Proof.Machine

/-! ## The stack as a store of words

A pull gives the byte `stackByte` tells of the slot it raises S to. On canonical RAM, with the stack page read and written
in one bank, the slots of a pushed word hold its two bytes until S comes back above them. -/

section StackSlots

variable (s : State)

/-- The byte a pull gives that leaves S at `sp`. -/
def stackByte (sp : Byte) : Byte := s.byteAt (s.bankOf (stackAddr sp) false) (256 + sp.toNat)

/-- The stack page is read and written in one bank. -/
def OneStackBank : Prop := ∀ sp : Byte, s.bankOf (stackAddr sp) true = s.bankOf (stackAddr sp) false

/-- The pushes of a JSR and of an interrupt entry: the high byte of `w`, then its low byte (R353, 60_exceptions.md R412). -/
def pushWord (w : Addr) : State := push (lowByte w) (push (highByte w) s)

theorem pull_eq_stackByte : pull s = (stackByte s (s.sp + 1), s.setSp (s.sp + 1)) := pull_eq s

variable {s}

theorem stackSlot_ne {k sp : Byte} (h : k ≠ sp) : 256 + k.toNat ≠ 256 + sp.toNat :=
  fun e => h (BitVec.eq_of_toNat_eq (by omega))

theorem ne_sub_one (sp : Byte) : sp ≠ sp - 1 := by bv_omega

theorem push_wf (h : ∀ b, (s.ram b).wf = true) (v : Byte) (b : Bank) : ((push v s).ram b).wf = true := by
  rw [push_eq, State.ram_setSp, State.ram_setRam]
  split
  · exact Memory.wf_write (h b)
  · exact h b

theorem push_byteAt_here (h : ∀ b, (s.ram b).wf = true) (v : Byte) :
    (push v s).byteAt (s.bankOf (stackAddr s.sp) true) (256 + s.sp.toNat) = v := by
  rw [← stackAddr_toNat]
  exact (push_stored s v).here (stackAddr_lt s.sp) (h _)

theorem stackByte_push_same (h : ∀ b, (s.ram b).wf = true) (hb : OneStackBank s) (v : Byte) :
    stackByte (push v s) s.sp = v := by
  rw [stackByte, bankOf_push, ← hb]
  exact push_byteAt_here h v

theorem stackByte_push_other {k : Byte} (hk : k ≠ s.sp) (v : Byte) : stackByte (push v s) k = stackByte s k := by
  rw [stackByte, bankOf_push]
  exact push_byteAt_other s (stackSlot_ne hk)

theorem OneStackBank.push (hb : OneStackBank s) (v : Byte) : OneStackBank (push v s) := fun sp => by
  rw [bankOf_push, bankOf_push, hb]

variable (s) in
theorem pushWord_regs (w : Addr) : (pushWord s w).regs = { s.regs with sp := s.sp - 2 } := by
  have sp : s.sp - 1 - 1 = s.sp - 2 := BitVec.sub_sub s.sp 1 1
  rw [pushWord, push_regs, push_regs, push_sp, sp]

/-- The two slots above S hold the word just pushed. -/
theorem stack_pushWord (h : ∀ b, (s.ram b).wf = true) (hb : OneStackBank s) (w : Addr) :
    (pushWord s w).sp + 2 = s.sp
      ∧ wordOf (stackByte (pushWord s w) ((pushWord s w).sp + 1)) (stackByte (pushWord s w) ((pushWord s w).sp + 2)) = w := by
  have sp : (pushWord s w).sp = s.sp - 2 := congrArg Regs.sp (pushWord_regs s w)
  have lowSlot : s.sp - 2 + 1 = s.sp - 1 := by bv_omega
  have highSlot : s.sp - 2 + 2 = s.sp := BitVec.sub_add_cancel s.sp 2
  have low : stackByte (pushWord s w) (s.sp - 1) = lowByte w := stackByte_push_same (push_wf h _) (hb.push _) _
  have high : stackByte (pushWord s w) s.sp = highByte w := by
    rw [pushWord, stackByte_push_other (ne_sub_one s.sp), stackByte_push_same h hb]
  rw [sp, lowSlot, highSlot, low, high, wordOf_lowByte_highByte]
  exact ⟨rfl, rfl⟩

/-- After PC and a byte are pushed, the three slots above S hold the byte and PC. -/
theorem stack_push_pushWord (h : ∀ b, (s.ram b).wf = true) (hb : OneStackBank s) (v : Byte) (w : Addr) :
    (push v (pushWord s w)).sp + 3 = s.sp
      ∧ stackByte (push v (pushWord s w)) ((push v (pushWord s w)).sp + 1) = v
      ∧ wordOf (stackByte (push v (pushWord s w)) ((push v (pushWord s w)).sp + 2))
          (stackByte (push v (pushWord s w)) ((push v (pushWord s w)).sp + 3)) = w := by
  obtain ⟨sp, word⟩ := stack_pushWord h hb w
  have byteSlot (k : Byte) : k - 1 + 1 = k := BitVec.sub_add_cancel k 1
  have lowSlot (k : Byte) : k - 1 + 2 = k + 1 ∧ k + 1 ≠ k := by constructor <;> bv_omega
  have highSlot (k : Byte) : k - 1 + 3 = k + 2 ∧ k + 2 ≠ k := by constructor <;> bv_omega
  rw [push_sp, byteSlot, (lowSlot _).1, (highSlot _).1, stackByte_push_other (lowSlot _).2,
    stackByte_push_other (highSlot _).2]
  exact ⟨sp, stackByte_push_same (push_wf (push_wf h _) _) ((hb.push _).push _) v, word⟩

end StackSlots

/-! ## Quiet ends -/

theorem QuietFrame.retire {q : Addr} {s t : State} (h : QuietFrame q 0 s t) (pc : Addr) (k : Nat) :
    QuietFrame pc k s (t.retire pc k) where
  pc := rfl
  cost := retire_costs s t pc k (by simp [h.cost.cycle]) (by simp [h.cost.totalCycle])
  ram := h.ram.trans ⟨rfl, rfl⟩
  devices := h.devices.trans ⟨rfl, rfl, rfl, rfl, rfl, rfl⟩
  control := h.control.trans ⟨rfl, rfl, rfl, rfl, rfl, rfl, rfl, rfl⟩

/-! ## Branches (45_control.md R340 to R349) -/

/-- Settles O32: the nine are one form, of 2 cycles when not taken, and differ in their condition alone. -/
theorem branchResults : Obligations.BranchResults := by
  intro rr s
  have form (taken : Bool) := branch_result s taken (s.pc + 2) rr 2
  exact ⟨⟨_, rfl, form _⟩, ⟨_, rfl, form _⟩, ⟨_, rfl, form _⟩, ⟨_, rfl, form _⟩, ⟨_, rfl, form _⟩, ⟨_, rfl, form _⟩,
    ⟨_, rfl, form _⟩, ⟨_, rfl, form _⟩, ⟨_, rfl, form true⟩, rfl, rfl, rfl, rfl, rfl, rfl, rfl, rfl, rfl⟩

/-! ## Jumps (45_control.md R350) -/

/-- A jump through the word at `q`: the two reads leave registers, RAM and control state. -/
theorem jumpThrough_result (s : State) (q : Addr) (k : Nat) :
    let t := (read16 q s).2.retire (read16 q s).1 k
    t.regs = s.regs ∧ t.pc = (read16 q s).1 ∧ Costs k s t ∧ RamKept s t ∧ DevicesAs (read16 q s).2 t ∧ ControlKept s t :=
  ⟨by simp [State.regs], rfl, retire_costs s _ _ _ (by simp) (by simp), (read16_undisturbed s q).ram.trans ⟨rfl, rfl⟩,
    ⟨rfl, rfl, rfl, rfl, rfl, rfl⟩,
    ((busRead_control s q).trans (busRead_control _ _)).trans ⟨rfl, rfl, rfl, rfl, rfl, rfl, rfl, rfl⟩⟩

/-- Settles O33: the absolute form sets PC, the other two jump through the word at `w` and at `w + X`. -/
theorem jmpResult : Obligations.JmpResult := by
  intro w s
  refine ⟨⟨_, rfl, rfl, (registers_quiet s).retire w 3⟩, fun i q hi => ?through, rfl⟩
  case through =>
    rw [← setWidth_eq_append] at hi
    have form : exec i s = .next ((read16 q s).2.retire (read16 q s).1 6) := by fin_cases hi <;> rfl
    exact ⟨_, form, jumpThrough_result s q 6⟩

/-! ## Subroutine call and return (45_control.md R353, R354) -/

/-- RTS takes the word in the next two slots and goes to the address after it. -/
theorem exec_rts (s : State) : ∃ u, exec .rts s = .next u ∧ u.regs = { s.regs with sp := s.sp + 2 }
    ∧ QuietFrame (wordOf (stackByte s (s.sp + 1)) (stackByte s (s.sp + 2)) + 1) 6 s u := by
  have second : s.sp + 1 + 1 = s.sp + 2 := BitVec.add_assoc s.sp 1 1
  rw [← second]
  simp only [exec, execRts, pull_eq_stackByte]
  exact ⟨_, rfl, rfl, (registers_quiet s).retire _ 6⟩

/-- Settles O34: the two pushes of JSR fill the slots at S and one below, which are those RTS reads from where JSR left S. -/
theorem subroutineCallAndReturn : Obligations.SubroutineCallAndReturn := by
  intro w s hm hx
  have wf := ram_wf hm hx
  have regs := pushWord_regs s (s.pc + 2)
  refine ⟨⟨(pushWord s (s.pc + 2)).retire w 6, rfl, regs, rfl, ?cost, ?high, ?low, fun b n hn => ?elsewhere, ?devices,
    ?control, fun hb => ?undone⟩, exec_rts s, rfl, rfl⟩
  case cost => exact retire_costs s _ _ _ (by simp [pushWord]) (by simp [pushWord])
  case high =>
    exact (push_byteAt_other (push _ s) (stackSlot_ne (ne_sub_one s.sp))).trans (push_byteAt_here wf _)
  case low =>
    have low := push_byteAt_here (push_wf wf (highByte (s.pc + 2))) (lowByte (s.pc + 2))
    rwa [bankOf_push] at low
  case elsewhere =>
    have first := hn 0#8 (by simp)
    have second := hn 1#8 (by simp)
    rw [BitVec.sub_zero] at first
    exact (push_byteAt_elsewhere (push _ s) (by rwa [bankOf_push])).trans (push_byteAt_elsewhere s first)
  case devices => exact ((push_devices s _).trans (push_devices _ _)).trans ⟨rfl, rfl, rfl, rfl, rfl, rfl⟩
  case control =>
    exact ((push_control s _).trans (push_control _ _)).trans ⟨rfl, rfl, rfl, rfl, rfl, rfl, rfl, rfl⟩
  case undone =>
    obtain ⟨u, rts, back, frame⟩ := exec_rts ((pushWord s (s.pc + 2)).retire w 6)
    obtain ⟨sp, word⟩ := stack_pushWord wf hb (s.pc + 2)
    refine ⟨u, rts, ?_, frame.pc.trans ((congrArg (· + 1) word).trans (BitVec.add_assoc s.pc 2 1))⟩
    rw [back, State.retire_sp, sp]
    exact congrArg (fun r : Regs => { r with sp := s.sp }) regs

/-! ## Return from an interrupt (45_control.md R355, 60_exceptions.md R412, R420) -/

section InterruptReturn

variable (s : State)

/-- RTI takes the flags from the next slot and PC from the two after it. -/
theorem exec_rti : ∃ u, exec .rti s = .next u
    ∧ QuietFrame (wordOf (stackByte s (s.sp + 2)) (stackByte s (s.sp + 3))) 6 s u
    ∧ u.regs = { s.regs with sp := s.sp + 3, p := unpackP (stackByte s (s.sp + 1)) } := by
  have second : s.sp + 1 + 1 = s.sp + 2 := BitVec.add_assoc s.sp 1 1
  have third : s.sp + 2 + 1 = s.sp + 3 := BitVec.add_assoc s.sp 2 1
  rw [← third, ← second]
  simp only [exec, execRti, returnFromInterrupt, pull_eq_stackByte]
  exact ⟨_, rfl, (registers_quiet s).retire _ 6, rfl⟩

theorem unpackP_packP (f : Flags) (b : Bool) : unpackP (packP f b) = f := by
  have bits : ∀ n v d i z c : Bool, unpackP (packP ⟨n, v, d, i, z, c⟩ b) = ⟨n, v, d, i, z, c⟩ := by
    cases b <;> decide
  exact bits f.n f.v f.d f.i f.z f.c

/-- A word read outside the I/O page is a quiet read. -/
theorem read16_rom {q : Addr} (hl : 0xC100 ≤ q.toNat) (hh : q.toNat < 0xFFFF) : (read16 q s).2 = s := by
  have next : 0xC100 ≤ (q + 1).toNat := by bv_omega
  rw [read16, busRead_quiet s (.inr hl), busRead_quiet s (.inr next)]

/-- An entry through a vector in ROM changes the state by its pushes and its registers only. -/
theorem enterInterrupt_rom {vector : Addr} (hl : 0xC100 ≤ vector.toNat) (hh : vector.toNat < 0xFFFF) (b : Bool) :
    ∃ f q, enterInterrupt vector b s = ((push (packP s.p b) (pushWord s s.pc)).setP f).setPc q :=
  ⟨_, _, by simp only [enterInterrupt, read16_rom _ hl hh, push_p]; rfl⟩

variable {s} in
/-- After an entry the three slots above S hold the flags and PC, and no register but S and P has changed. -/
theorem enterInterrupt_stack (h : ∀ b, (s.ram b).wf = true) (hb : OneStackBank s) {vector : Addr}
    (hl : 0xC100 ≤ vector.toNat) (hh : vector.toNat < 0xFFFF) (b : Bool) :
    let e := enterInterrupt vector b s
    e.sp + 3 = s.sp ∧ stackByte e (e.sp + 1) = packP s.p b
      ∧ wordOf (stackByte e (e.sp + 2)) (stackByte e (e.sp + 3)) = s.pc
      ∧ e.regs = { s.regs with sp := e.sp, p := e.p } := by
  obtain ⟨f, q, entry⟩ := enterInterrupt_rom s hl hh b
  obtain ⟨sp, byte, word⟩ := stack_push_pushWord h hb (packP s.p b) s.pc
  dsimp only
  rw [entry]
  exact ⟨sp, byte, word, by simp [State.regs, pushWord]⟩

end InterruptReturn

/-- Settles O35: RTI reads the three slots above S, which an entry has filled with the flags and PC. -/
theorem returnFromInterrupt_restores : Obligations.ReturnFromInterrupt := by
  intro s
  refine ⟨exec_rti s, fun b vector hl hh hm hx hb => ?undone, rfl⟩
  case undone =>
    obtain ⟨u, rti, frame, back⟩ := exec_rti (enterInterrupt vector b s)
    obtain ⟨sp, byte, word, regs⟩ := enterInterrupt_stack (ram_wf hm hx) hb hl hh b
    refine ⟨u, rti, ?_, frame.pc.trans word⟩
    rw [back, sp, byte, unpackP_packP, regs]
    rfl

/-! ## The trap opcode (45_control.md R366, 60_exceptions.md R406) -/

theorem trapRamWrite_byteAt (s : State) {w : Bank × Addr × Byte} {b : Bank} {n : Nat} (h : w.1 ≠ b ∨ w.2.1.toNat ≠ n) :
    (trapRamWrite s w).byteAt b n = s.byteAt b n := by
  unfold trapRamWrite
  split
  case isFalse => rfl
  case isTrue =>
    rw [State.byteAt, State.ram_setRam]
    split
    case isFalse => rfl
    case isTrue hb => exact Memory.read_write_other (h.resolve_left (absurd hb)).symm _

/-- The callback's RAM writes change only RAM, and of it only the bytes they name. -/
theorem trapRam_result (l : List (Bank × Addr × Byte)) (s : State) :
    ∃ m x, l.foldl trapRamWrite s = { s with ramMain := m, ramAux := x }
      ∧ ∀ b n, (∀ w ∈ l, w.1 ≠ b ∨ w.2.1.toNat ≠ n) → { s with ramMain := m, ramAux := x }.byteAt b n = s.byteAt b n := by
  induction l generalizing s with
  | nil => exact ⟨_, _, rfl, fun _ _ _ => rfl⟩
  | cons w l ih =>
    obtain ⟨m, x, rest, kept⟩ := ih (trapRamWrite s w)
    have ramOnly : { trapRamWrite s w with ramMain := m, ramAux := x } = { s with ramMain := m, ramAux := x } := by
      unfold trapRamWrite
      split <;> rfl
    rw [ramOnly] at rest kept
    exact ⟨m, x, rest, fun b n hn =>
      (kept b n fun v hv => hn v (.tail w hv)).trans (trapRamWrite_byteAt s (hn w (.head l)))⟩

/-- The callback's changes of media change the disk only. -/
theorem trapMedia_result (l : List MediaAction) (s : State) : ∃ d, l.foldl trapMedia s = { s with disk := d } := by
  induction l generalizing s with
  | nil => exact ⟨_, rfl⟩
  | cons m l ih =>
    obtain ⟨d, rest⟩ := ih (trapMedia s m)
    refine ⟨d, rest.trans ?_⟩
    unfold trapMedia
    split <;> rfl

/-- Everything a trap callback of effect `e` can change. -/
theorem applyTrap_result (s : State) (e : TrapEffect) :
    ∃ m x d v, applyTrap s e = { s with
        a := e.a, x := e.x, y := e.y, sp := e.sp, pc := e.pc, p := e.p, irqLine := e.irqLine, nmiPending := e.nmiPending
        instructionRun := e.instructionRun, ramMain := m, ramAux := x, disk := d, video := v, draws := s.draws + 1 }
      ∧ ∀ b n, (∀ w ∈ e.ramWrites, w.1 ≠ b ∨ w.2.1.toNat ≠ n) → (applyTrap s e).byteAt b n = s.byteAt b n := by
  obtain ⟨m, x, ram, kept⟩ := trapRam_result e.ramWrites s
  obtain ⟨d, media⟩ := trapMedia_result e.media { s with ramMain := m, ramAux := x }
  simp only [applyTrap, ram, media]
  exact ⟨m, x, d, _, rfl, kept⟩

/-- Settles O36: what a callback can change is `applyTrap_result`; the untrapped forms are the arms of `execBrk`. -/
theorem trapOpcodeResult : Obligations.TrapOpcodeResult := by
  intro t s
  refine ⟨fun handler hh => ?trapped, fun hn hp => ?nop, fun hn hp => ?interrupt⟩
  case trapped =>
    intro e
    have trap : exec (.brk t) s = .next ((applyTrap (s.setPc (s.pc + 2)) e).charge s.cfg.trapCycles.toNat) := by
      simp only [exec, execBrk, hh]
      rfl
    obtain ⟨m, x, d, v, after, kept⟩ := applyTrap_result (s.setPc (s.pc + 2)) e
    refine ⟨_, trap, ?_⟩
    rw [after] at kept ⊢
    exact ⟨rfl, rfl, rfl, rfl, rfl, ⟨rfl, rfl⟩, kept, rfl, rfl, rfl, rfl, rfl, rfl, rfl, rfl⟩
  case nop =>
    refine ⟨(s.logFault s.pc 0#8).retire (s.pc + 2) 2, ?_, rfl, rfl, (registers_quiet _).retire _ 2⟩
    simp only [exec, execBrk, hn, hp]
  case interrupt =>
    simp only [exec, execBrk, hn, hp]
    rfl

end Sys2Proof.Machine

/-! Proofs of the family 46_flags_nop.md: the flag instructions and NOP (R380 to R387), and the undefined opcodes (R390,
R391). -/

namespace Sys2Proof.Machine

/-! ## Flag instructions and NOP (46_flags_nop.md R380 to R387) -/

/-- Settles O37: each is the register-only form of 2 cycles, its effect on the flags alone. -/
theorem flagInstructionResults : Obligations.FlagInstructionResults := by
  intro s
  have form (p : Flags) : QuietFrame (s.pc + 1) 2 s (impliedInstr 2 (·.setP p) s) := impliedInstr_quiet s 2 (registers_quiet s)
  exact ⟨⟨_, rfl, rfl, form _⟩, ⟨_, rfl, rfl, form _⟩, ⟨_, rfl, rfl, form _⟩, ⟨_, rfl, rfl, form _⟩,
    ⟨_, rfl, rfl, form _⟩, ⟨_, rfl, rfl, form _⟩, ⟨_, rfl, rfl, form _⟩, ⟨_, rfl, rfl, form s.p⟩,
    rfl, rfl, rfl, rfl, rfl, rfl, rfl, rfl⟩

/-! ## Undefined opcodes (46_flags_nop.md R390, R391)

The table of 30_encoding.md R143 is `wdcForm` with `wdcCycles`: an opcode's form gives its length and its read. -/

theorem wdcForm_imm_row : ∀ op ∈ [0x02#8, 0x22#8, 0x42#8, 0x62#8, 0x82#8, 0xC2#8, 0xE2#8],
    wdcForm op = .imm ∧ wdcCycles op = 2 := by decide

theorem wdcForm_zp_row : ∀ op : Byte, op = 0x44#8 → wdcForm op = .zp ∧ wdcCycles op = 3 := by decide

theorem wdcForm_zpx_row : ∀ op ∈ [0x54#8, 0xD4#8, 0xF4#8], wdcForm op = .zpx ∧ wdcCycles op = 4 := by decide

theorem wdcForm_abs8_row : ∀ op : Byte, op = 0x5C#8 → wdcForm op = .abs ∧ wdcCycles op = 8 := by decide

theorem wdcForm_abs4_row : ∀ op ∈ [0xDC#8, 0xFC#8], wdcForm op = .abs ∧ wdcCycles op = 4 := by decide

theorem wdcForm_imp_row : ∀ op : Byte, op.toNat % 16 = 3 ∨ op.toNat % 16 = 11 → wdcForm op = .imp ∧ wdcCycles op = 1 := by
  decide

theorem isBitOpcode_of_mod_eight : ∀ op : Byte, op.toNat % 8 = 7 → isBitOpcode op = true := by decide

/-- The free count of a bit opcode is one of the table's. -/
theorem wdcCycles_bitOpcode {op : Byte} (h : isBitOpcode op = true) : wdcCycles op ∈ [1, 2, 3, 4, 8] := by
  have counts : ∀ n : Fin 5, wdcCostOf n ∈ [1, 2, 3, 4, 8] := by decide
  rw [wdcCycles, if_pos h]
  exact counts _

/-- The length a form gives. -/
def WdcForm.length : WdcForm → Addr
  | .imp => 1
  | .imm | .zp | .zpx => 2
  | .abs => 3

/-- The discarded read a form makes. -/
def WdcForm.access (operand : UndefOperand) (s : State) : WdcForm → State
  | .imp | .imm => s
  | .zp => (busRead (zeroPage (undefLow operand)) s).2
  | .zpx => (busRead (zeroPage (undefLow operand + s.x)) s).2
  | .abs => (busRead (wordOf (undefLow operand) (undefHigh operand)) s).2

theorem wdcLength_eq_length (op : Byte) : wdcLength op = (wdcForm op).length := by
  rw [wdcLength]
  cases wdcForm op <;> rfl

theorem wdcAccess_eq_access (op : Byte) (operand : UndefOperand) (s : State) :
    wdcAccess op operand s = (wdcForm op).access operand s := by
  rw [wdcAccess]
  cases wdcForm op <;> rfl

/-- From `s` to `t` the opcode byte `op` was logged and skipped: `len` bytes, `k` cycles, the devices as in `u`, nothing
else. -/
def LoggedSkip (op : Byte) (len : Addr) (k : Nat) (u s t : State) : Prop :=
  t.regs = s.regs ∧ t.pc = s.pc + len ∧ Costs k s t ∧ RamKept s t ∧ DevicesAs u t ∧ ControlKept (s.logFault s.pc op) t

section Undefined

variable (op : Byte) (operand : UndefOperand) (s : State)

theorem loggedSkip_noAccess (len : Addr) (k : Nat) :
    LoggedSkip op len k s s ((s.logFault s.pc op).retire (s.pc + len) k) :=
  ⟨rfl, rfl, ⟨rfl, rfl⟩, ⟨rfl, rfl⟩, ⟨rfl, rfl, rfl, rfl, rfl, rfl⟩, ⟨rfl, rfl, rfl, rfl, rfl, rfl, rfl, rfl⟩⟩

theorem loggedSkip_busRead (q : Addr) (len : Addr) (k : Nat) :
    LoggedSkip op len k (busRead q s).2 s (((busRead q s).2.logFault s.pc op).retire (s.pc + len) k) :=
  ⟨by simp [State.regs], rfl, retire_costs s _ _ _ (by simp) (by simp), (busRead_ramKept s q).trans ⟨rfl, rfl⟩,
    ⟨rfl, rfl, rfl, rfl, rfl, rfl⟩, by constructor <;> simp⟩

theorem exec_undef_docNop2 (hp : s.cfg.undefPolicy = .docNop2) :
    ∃ t, exec (.undef op operand) s = .next t ∧ LoggedSkip op 2 2 s s t := by
  simp only [exec, execUndef, hp]
  exact ⟨_, rfl, loggedSkip_noAccess op s 2 2⟩

/-- An opcode whose row of the table is form `f` and `k` cycles. -/
theorem exec_undef_wdc {f : WdcForm} {k : Nat} (hp : s.cfg.undefPolicy = .wdc) (hrow : wdcForm op = f ∧ wdcCycles op = k) :
    ∃ t, exec (.undef op operand) s = .next t ∧ LoggedSkip op f.length k (f.access operand s) s t := by
  obtain ⟨form, rfl⟩ := hrow
  simp only [exec, execUndef, hp, wdcLength_eq_length, wdcAccess_eq_access, form]
  refine ⟨_, rfl, ?_⟩
  cases f with
  | imp | imm => exact loggedSkip_noAccess op s _ _
  | zp | zpx | abs => exact loggedSkip_busRead op s _ _ _

end Undefined

/-- Settles O38: under `Wdc` every clause is the logged skip of the opcode's form, which the table's row names or, for a bit
opcode, is left free. -/
theorem undefinedOpcodeResults : Obligations.UndefinedOpcodeResults := by
  intro op operand s
  refine ⟨exec_undef_docNop2 op operand s, fun hp => ?wdc⟩
  case wdc =>
    have skip {f : WdcForm} {k : Nat} := exec_undef_wdc op operand s (f := f) (k := k) hp
    refine ⟨fun h => skip (wdcForm_imm_row op h), fun h => skip (wdcForm_zp_row op h), fun h => skip (wdcForm_zpx_row op h),
      fun h => skip (wdcForm_abs8_row op h), fun h => skip (wdcForm_abs4_row op h), fun h => skip (wdcForm_imp_row op h),
      fun h => ⟨wdcCycles_bitOpcode (isBitOpcode_of_mod_eight op h), ?free⟩⟩
    case free => cases form : wdcForm op <;> exact skip ⟨form, rfl⟩

end Sys2Proof.Machine

/-! Proofs of the family 60_exceptions.md: the host actions (R440), the interrupt check and the entry (R410, R412), and the
fault log (R400, R404). -/

namespace Sys2Proof.Machine

/-! ## Every host action keeps the invariant (60_exceptions.md R440)

An action reaches one part of the invariant or none: that part is proved of the new state, the others are as they were. -/

section HostInvariant

variable {s : State}

/-- A cold reset empties RAM, a warm one leaves it. -/
theorem resetCpu_inv (h : Inv s) (cold : Bool) : Inv (resetCpu cold s) := by
  cases cold
  · exact h.congr rfl rfl rfl rfl rfl rfl rfl rfl rfl
  · exact { h with ram := ⟨rfl, rfl, rfl, rfl⟩ }

/-- The loop of `run_cycles` is made of steps. -/
theorem runLoop_inv (n fuel : Nat) {t : State} (h : Inv s) (hr : runLoop n fuel s = .next t) : Inv t := by
  induction fuel generalizing s with
  | zero =>
    unfold runLoop at hr
    split at hr
    · cases hr
    · cases hr
      exact h
  | succ fuel ih =>
    obtain ⟨u, hu, hi⟩ := step_inv h
    simp only [runLoop, hu] at hr
    split at hr
    · exact ih hi hr
    · cases hr
      exact h

theorem runCycles_inv (n fuel : Nat) {t : State} (h : Inv s) (hr : runCycles n fuel s = .next t) : Inv t :=
  have start : Inv { s with cycle := 0#32, instructionRun := 1 } := h.congr rfl rfl rfl rfl rfl rfl rfl rfl rfl
  runLoop_inv n fuel start hr

theorem keypress_inv {k : Byte} {t : State} (h : Inv s) (hk : keypress k s = .next t) : Inv t := by
  unfold keypress at hk
  split at hk
  · cases hk
    exact h.congr rfl rfl rfl rfl rfl rfl rfl rfl rfl
  · split at hk
    · cases hk
      exact h
    · cases hk

theorem registerTrap_inv (h : Inv s) (t : Byte) (handler : Nat) : Inv (registerTrap t handler s) :=
  { h with traps := insertTrap_sorted t handler h.traps }

theorem timersOk_iff : timersOk s ↔ ∃ e rest, s.timers = e :: rest ∧ e.callback = .vbl := by
  unfold timersOk
  cases s.timers <;> simp

/-- A new timer goes to the end, so timer 0 stays the VBL timer. -/
theorem registerTimer_inv (h : Inv s) (handler : Nat) (initial : BitVec 64) (name : String) :
    Inv (registerTimer handler initial name s).2 := by
  obtain ⟨e, rest, hl, vbl⟩ := timersOk_iff.1 h.timers
  have first : timersOk (registerTimer handler initial name s).2 :=
    timersOk_iff.2 ⟨e, rest ++ [⟨initial, .host handler, name⟩], by rw [registerTimer, hl]; rfl, vbl⟩
  exact { h with timers := first }

/-- Setting a timer's `remaining` changes no callback. -/
theorem timerSet_inv {id : Nat} {v : BitVec 64} {t : State} (h : Inv s) (ht : timerSet id v s = .next t) : Inv t := by
  unfold timerSet at ht
  split at ht
  · cases ht
    obtain ⟨e, rest, hl, vbl⟩ := timersOk_iff.1 h.timers
    have first : timersOk { s with timers := s.timers.modify id fun e => { e with remaining := v } } := by
      rw [hl]
      cases id with
      | zero => exact timersOk_iff.2 ⟨_, _, rfl, vbl⟩
      | succ id => exact timersOk_iff.2 ⟨_, _, rfl, vbl⟩
    exact { h with timers := first }
  · cases ht

/-- The frame drawn has 240 rows of 320 pixels (62_video.md R500). -/
theorem frame_size (s : State) : (frame s).length = 240 ∧ ∀ row ∈ frame s, row.length = 320 := by
  refine ⟨by simp [frame], fun row hrow => ?_⟩
  obtain ⟨_, -, rfl⟩ := List.mem_map.1 hrow
  simp

theorem renderFrame_inv (h : Inv s) : Inv (renderFrame s) :=
  have ⟨vbl, line, _⟩ := h.video
  { h with video := ⟨vbl, line, frame_size s⟩ }

theorem setVideoOptions_inv (h : Inv s) (mono : Bool) (index : Nat) (bank : Bool) :
    Inv (setVideoOptions mono index bank s) :=
  { h with video := h.video }

/-- An accepted mount keeps the disk's part, and no other is made. -/
theorem mountDrive_inv {d : Fin 2} {m : Medium} {wp : Bool} {mode : MountMode} {t : State} (h : Inv s)
    (hm : mountDrive d m wp mode s = .next t) : Inv t := by
  unfold mountDrive at hm
  split at hm
  · cases hm
  · split at hm
    · cases hm
    · rename_i accepted
      cases hm
      exact { h with disk := Disk.media_ok h.disk (Bool.eq_true_of_not_eq_false accepted) }

end HostInvariant

/-- Settles O43: by cases of the action, each keeping the part of the invariant it reaches. -/
theorem hostActionsKeepInvariant : Obligations.HostActionsKeepInvariant := by
  intro act s t h hst
  cases act with
  | reset cold => cases hst; exact resetCpu_inv h cold
  | runCycles n fuel => exact runCycles_inv n fuel h hst
  | keypress k => exact keypress_inv h hst
  | setIrq _ | nmi => cases hst; exact h.congr rfl rfl rfl rfl rfl rfl rfl rfl rfl
  | registerTrap i handler => cases hst; exact registerTrap_inv h i handler
  | registerTimer handler initial name => cases hst; exact registerTimer_inv h handler initial name
  | timerSet id v => exact timerSet_inv h hst
  | renderFrame => cases hst; exact renderFrame_inv h
  | setVideoOptions mono index bank => cases hst; exact setVideoOptions_inv h mono index bank
  | audioDrain k => cases hst; exact { h with audio := Audio.drain_ok h.params k h.audio }
  | audioSync cyc => cases hst; exact { h with audio := Audio.sync_ok cyc h.audio }
  | mount d m wp mode => exact mountDrive_inv h hst
  | eject d => cases hst; exact { h with disk := Disk.media_ok h.disk rfl }

/-! ## The step and its interrupt check (60_exceptions.md R400, R410) -/

section InterruptChecked

variable {s : State}

/-- A step is the processor's part, then the devices clocked by what it charged. -/
theorem step_of_cpuStep {t : State} (h : cpuStep s = .next t) : step s = .next (deviceStep (charged s t) t) := by
  rw [step, iteration, h, afterCpu]

theorem cpuStep_nmi (h : s.nmiPending = true) :
    cpuStep s = .next ((enterInterrupt nmiVector false { s with nmiPending := false }).charge interruptCycles) :=
  if_pos h

theorem cpuStep_irq (hn : s.nmiPending = false) (hi : s.irqLine = true) (hm : s.p.i = false) :
    cpuStep s = .next ((enterInterrupt irqVector false s).charge interruptCycles) := by
  rw [cpuStep, hn, hi, hm]
  rfl

/-- What an interrupt check that takes no interrupt finds. -/
theorem noInterrupt_iff : ¬ (s.nmiPending = true ∨ (s.irqLine = true ∧ s.p.i = false)) ↔
    s.nmiPending = false ∧ (s.irqLine = false ∨ s.p.i = true) := by
  cases s.nmiPending <;> cases s.irqLine <;> cases s.p.i <;> simp

variable (s) in
/-- Whichever branch the check takes, the processor answers a next state. -/
theorem cpuStep_next : ∃ t, cpuStep s = .next t := by
  unfold cpuStep
  split
  · exact ⟨_, rfl⟩
  · split
    · exact ⟨_, rfl⟩
    · exact exec_next _ _

theorem charged_charge {t : State} (h : t.totalCycle = s.totalCycle) (k : Nat) :
    charged s (t.charge k) = (BitVec.ofNat 64 k).toNat := by
  rw [charged, State.charge_totalCycle, h, BitVec.add_comm, BitVec.add_sub_cancel]

/-- Where the processor enters an interrupt, the devices are clocked by its 7 cycles. -/
theorem step_enterInterrupt {t : State} {vector : Addr} {b : Bool}
    (h : cpuStep s = .next ((enterInterrupt vector b t).charge interruptCycles)) (ht : t.totalCycle = s.totalCycle) :
    step s = .next (deviceStep 7 ((enterInterrupt vector b t).charge 7)) := by
  have entry : (enterInterrupt vector b t).totalCycle = s.totalCycle := by simp [enterInterrupt, ht]
  rw [step_of_cpuStep h, charged_charge entry]
  rfl

end InterruptChecked

/-- Settles O8: the processor always answers a next state, and the devices are clocked from it. -/
theorem stepAlwaysContinues : Obligations.StepAlwaysContinues := fun s =>
  have ⟨_, ht⟩ := cpuStep_next s
  ⟨_, step_of_cpuStep ht⟩

/-! ## The bytes a fetch reads (40_load_store.md R196) -/

section FetchedBytes

variable {s : State}

theorem fetch_one_byte (h : opcodeLength s.cfg (busRead s.pc s).1 = 1) :
    fetch s = (decodeBytes s.cfg (busRead s.pc s).1 0 0, (busRead s.pc s).2) := by
  simp [fetch, fetchByte1, fetchByte2, h]

theorem fetch_two_bytes (h : opcodeLength s.cfg (busRead s.pc s).1 = 2) :
    fetch s = (decodeBytes s.cfg (busRead s.pc s).1 (busRead (s.pc + 1) (busRead s.pc s).2).1 0,
      (busRead (s.pc + 1) (busRead s.pc s).2).2) := by
  simp [fetch, fetchByte1, fetchByte2, h]

theorem fetch_three_bytes (h : opcodeLength s.cfg (busRead s.pc s).1 = 3) :
    fetch s = (decodeBytes s.cfg (busRead s.pc s).1 (busRead (s.pc + 1) (busRead s.pc s).2).1
        (busRead (s.pc + 2) (busRead (s.pc + 1) (busRead s.pc s).2).2).1,
      (busRead (s.pc + 2) (busRead (s.pc + 1) (busRead s.pc s).2).2).2) := by
  simp [fetch, fetchByte1, fetchByte2, h]

end FetchedBytes

/-- Settles O7: the check's three branches, an entry charging 7 cycles; clocking the devices is `deviceStep_clock`. -/
theorem interruptCheck : Obligations.InterruptCheck := by
  refine ⟨fun k s => ⟨rfl, rfl, deviceStep_clock k s⟩, fun s => ?check⟩
  refine ⟨fun hn => ?nmi, fun hn hi hm => ?irq, fun hn hi => ?instr⟩
  case nmi => exact step_enterInterrupt (cpuStep_nmi hn) rfl
  case irq => exact step_enterInterrupt (cpuStep_irq hn hi hm) rfl
  case instr =>
    obtain ⟨t, ht⟩ := exec_next (fetch s).1 (fetch s).2
    have run : step s = .next (deviceStep (charged s t) t) := step_of_cpuStep ((cpuStep_noInterrupt hn hi).trans ht)
    exact ⟨(fetch s).1, (fetch s).2, t, rfl, ht, run, fun h => Prod.ext_iff.1 (fetch_one_byte h),
      fun h => Prod.ext_iff.1 (fetch_two_bytes h), fun h => Prod.ext_iff.1 (fetch_three_bytes h)⟩

/-! ## What an interrupt entry saves, writes and leaves (60_exceptions.md R412) -/

section InterruptEntry

variable (s : State)

theorem pushWord_sp (w : Addr) : (pushWord s w).sp = s.sp - 2 := congrArg Regs.sp (pushWord_regs s w)

/-- A vector is read from the main ROM, low byte first (20_memory.md R82). -/
theorem read16_vector {vector : Addr} {off : Nat} (h : vector.toNat = 0xC000 + off) (hl : 0x1000 ≤ off) (hh : off < 0x3FFF) :
    (read16 vector s).1 = romByte s.cfg (off + 1) ++ romByte s.cfg off := by
  have next : (vector + 1).toNat = 0xC000 + (off + 1) := by bv_omega
  have rom {q : Addr} {k : Nat} (hq : q.toNat = 0xC000 + k) (hk : 0x1000 ≤ k) : busRead q s = (romByte s.cfg k, s) := by
    rw [busRead_rom s (by omega), if_neg (by omega), hq, Nat.add_sub_cancel_left]
  rw [read16, rom h hl, rom next (by omega), wordOf]

/-- An entry through a vector of the main ROM: the pushes, the flags, and PC from the vector's word. -/
theorem enterInterrupt_vector {vector : Addr} {off : Nat} (h : vector.toNat = 0xC000 + off) (hl : 0x1000 ≤ off)
    (hh : off < 0x3FFF) (b : Bool) :
    enterInterrupt vector b s = ((push (packP s.p b) (pushWord s s.pc)).setP { s.p with i := true, d := false }).setPc
      (romByte s.cfg (off + 1) ++ romByte s.cfg off) := by
  simp only [enterInterrupt, read16_rom _ (by omega : 0xC100 ≤ vector.toNat) (by omega), read16_vector _ h hl hh]
  simp [pushWord]

variable {s}

/-- After a word and a byte are pushed, the three slots hold them, and every other byte of RAM is as before. -/
theorem push_pushWord_ram (h : ∀ b, (s.ram b).wf = true) (v : Byte) (w : Addr) :
    let t := push v (pushWord s w)
    t.byteAt (s.bankOf (stackAddr s.sp) true) (256 + s.sp.toNat) = highByte w
      ∧ t.byteAt (s.bankOf (stackAddr (s.sp - 1)) true) (256 + (s.sp - 1).toNat) = lowByte w
      ∧ t.byteAt (s.bankOf (stackAddr (s.sp - 2)) true) (256 + (s.sp - 2).toNat) = v
      ∧ ∀ bank n, (∀ k ∈ [0#8, 1#8, 2#8], (bank, n) ≠ (s.bankOf (stackAddr (s.sp - k)) true, 256 + (s.sp - k).toNat)) →
          t.byteAt bank n = s.byteAt bank n := by
  have second : (push (highByte w) s).sp = s.sp - 1 := push_sp s _
  have third : (pushWord s w).sp = s.sp - 2 := pushWord_sp s w
  have distinct : s.sp ≠ s.sp - 1 ∧ s.sp ≠ s.sp - 2 ∧ s.sp - 1 ≠ s.sp - 2 := by refine ⟨?_, ?_, ?_⟩ <;> bv_omega
  obtain ⟨high_low, high_byte, low_byte⟩ := distinct
  have wf := push_wf h (highByte w)
  have bank (q : Addr) : (pushWord s w).bankOf q true = s.bankOf q true := by rw [pushWord, bankOf_push, bankOf_push]
  refine ⟨?high, ?low, ?byte, fun b n hn => ?others⟩
  case high =>
    calc _ = (pushWord s w).byteAt _ _ := push_byteAt_other _ (stackSlot_ne (third ▸ high_byte))
      _ = (push (highByte w) s).byteAt _ _ := push_byteAt_other _ (stackSlot_ne (second ▸ high_low))
      _ = highByte w := push_byteAt_here h _
  case low =>
    have here := push_byteAt_here wf (lowByte w)
    rw [bankOf_push, second] at here
    exact (push_byteAt_other _ (stackSlot_ne (third ▸ low_byte))).trans here
  case byte =>
    have here := push_byteAt_here (push_wf wf (lowByte w)) v
    rwa [← pushWord, third, bank] at here
  case others =>
    have h0 := hn 0#8 (by decide)
    have h1 := hn 1#8 (by decide)
    have h2 := hn 2#8 (by decide)
    rw [BitVec.sub_zero] at h0
    calc _ = (pushWord s w).byteAt b n := push_byteAt_elsewhere _ (by rwa [third, bank])
      _ = (push (highByte w) s).byteAt b n := push_byteAt_elsewhere _ (by rwa [second, bankOf_push])
      _ = s.byteAt b n := push_byteAt_elsewhere s h0

end InterruptEntry

/-- Settles O9: an entry is its three pushes, its flags and its vector's word. -/
theorem interruptEntryEffect : Obligations.InterruptEntryEffect := by
  intro s b vector off hv hm hx t
  obtain ⟨h, hl, hh⟩ : vector.toNat = 0xC000 + off ∧ 0x1000 ≤ off ∧ off < 0x3FFF := by
    simp only [List.mem_cons, Prod.mk.injEq, List.not_mem_nil, or_false] at hv
    obtain ⟨rfl, rfl⟩ | ⟨rfl, rfl⟩ := hv <;> decide
  have ht : t = _ := enterInterrupt_vector s h hl hh b
  obtain ⟨high, low, flags, others⟩ := push_pushWord_ram (ram_wf hm hx) (packP s.p b) s.pc
  rw [ht]
  refine ⟨?regs, rfl, high, low, flags, others, ?cost, ?devices, ?control⟩
  case regs =>
    have pushed : (push (packP s.p b) (pushWord s s.pc)).regs = { s.regs with sp := s.sp - 3 } := by
      rw [push_regs, pushWord_regs, pushWord_sp, BitVec.sub_sub]
      rfl
    exact congrArg (fun r : Regs => { r with p := { s.p with i := true, d := false } }) pushed
  case cost => constructor <;> simp [pushWord]
  case devices => constructor <;> simp [pushWord]
  case control => constructor <;> simp [pushWord]

/-! ## The fault log (60_exceptions.md R404, 10_state.md R44)

No form of instruction logs: only $00 and the undefined opcodes do, and those by `logFault`. -/

section FaultLog

variable (s : State)

theorem readInstr_faultLog (m : Src) (extra : Nat) {f : Byte → State → State} (hf : ∀ v t, (f v t).faultLog = t.faultLog) :
    (readInstr m extra f s).faultLog = s.faultLog :=
  (hf _ _).trans (load_faultLog s m)

theorem modifyInstr_faultLog (m : RmwMode) (cycles : RmwMode → Bool → Nat) (f : Byte → Flags → Byte × Flags) :
    (modifyInstr m cycles f s).faultLog = s.faultLog := by
  cases hm : rmwMemMode m with
  | none => simp [modifyInstr, hm]
  | some mm => simp [modifyInstr_mem s hm]

theorem testInstr_faultLog (m : TestMode) (g : Byte → Byte → Byte) : (testInstr m g s).faultLog = s.faultLog := by
  simp [testInstr]

theorem bitModifyInstr_faultLog (z : Byte) (g : Byte → Byte) : (bitModifyInstr z g s).faultLog = s.faultLog := by
  simp [bitModifyInstr]

theorem branch_faultLog (taken : Bool) (q : Addr) (r : Byte) (k : Nat) : (branch taken q r k s).faultLog = s.faultLog :=
  have ⟨_, frame⟩ := branch_frame s taken q r k
  frame.control.faultLog

theorem bitBranchInstr_faultLog (n : Nat) (want : Bool) (z r : Byte) :
    (bitBranchInstr n want z r s).faultLog = s.faultLog :=
  (branch_faultLog _ _ _ _ _).trans (busRead_faultLog s _)

theorem pull_faultLog : (pull s).2.faultLog = s.faultLog := by simp

theorem execJmp_faultLog (m : JmpMode) : ∃ t, execJmp m s = .next t ∧ t.faultLog = s.faultLog := by
  cases m with
  | abs w => exact ⟨_, rfl, rfl⟩
  | ind w | iax w => exact ⟨_, rfl, read16_faultLog s _⟩

variable {s} in
/-- Every other instruction leaves the log. -/
theorem exec_faultLog_kept {i : Instr} (hb : ∀ n, i ≠ .brk n) (hu : ∀ o r, i ≠ .undef o r) :
    ∃ t, exec i s = .next t ∧ t.faultLog = s.faultLog := by
  cases i with
  | lda m | ldx m | ldy m | adc m | sbc m | cmp m | cpx m | cpy m | and m | ora m | eor m | bit m =>
    exact ⟨_, rfl, readInstr_faultLog s _ _ fun _ _ => rfl⟩
  | sta m | stx m | sty m | stz m => exact ⟨_, rfl, (storeInstr_frame s _ _).control.faultLog⟩
  | inc m | dec m | asl m | lsr m | rol m | ror m => exact ⟨_, rfl, modifyInstr_faultLog s _ _ _⟩
  | tsb m | trb m => exact ⟨_, rfl, testInstr_faultLog s _ _⟩
  | rmb0 z | rmb1 z | rmb2 z | rmb3 z | rmb4 z | rmb5 z | rmb6 z | rmb7 z
  | smb0 z | smb1 z | smb2 z | smb3 z | smb4 z | smb5 z | smb6 z | smb7 z =>
    exact ⟨_, rfl, bitModifyInstr_faultLog s _ _⟩
  | bbr0 z r | bbr1 z r | bbr2 z r | bbr3 z r | bbr4 z r | bbr5 z r | bbr6 z r | bbr7 z r
  | bbs0 z r | bbs1 z r | bbs2 z r | bbs3 z r | bbs4 z r | bbs5 z r | bbs6 z r | bbs7 z r =>
    exact ⟨_, rfl, bitBranchInstr_faultLog s _ _ _ _⟩
  | bpl r | bmi r | bvc r | bvs r | bcc r | bcs r | bne r | beq r | bra r => exact ⟨_, rfl, branch_faultLog s _ _ _ _⟩
  | tax | tay | txa | tya | tsx | txs | inx | iny | dex | dey | clc | sec | cli | sei | cld | sed | clv | nop =>
    exact ⟨_, rfl, rfl⟩
  | pha | php | phx | phy => exact ⟨_, rfl, push_faultLog s _⟩
  | pla | plx | ply | plp => exact ⟨_, rfl, pull_faultLog s⟩
  | jmp m => exact execJmp_faultLog s m
  | jsr w => exact ⟨_, rfl, (push_faultLog _ _).trans (push_faultLog s _)⟩
  | rts => exact ⟨_, rfl, (pull_faultLog _).trans (pull_faultLog s)⟩
  | rti => exact ⟨_, rfl, ((pull_faultLog _).trans (pull_faultLog _)).trans (pull_faultLog s)⟩
  | brk n => exact absurd rfl (hb n)
  | undef o r => exact absurd rfl (hu o r)

/-- An undefined opcode logs itself, under either policy. -/
theorem exec_undef_faultLog (op : Byte) (operand : UndefOperand) :
    ∃ t, exec (.undef op operand) s = .next t ∧ t.faultLog = s.faultLog ++ [(s.pc, op)] := by
  cases hp : s.cfg.undefPolicy with
  | docNop2 =>
    obtain ⟨t, ht, -, -, -, -, -, control⟩ := exec_undef_docNop2 op operand s hp
    exact ⟨t, ht, control.faultLog⟩
  | wdc =>
    obtain ⟨t, ht, -, -, -, -, -, control⟩ := exec_undef_wdc op operand s hp ⟨rfl, rfl⟩
    exact ⟨t, ht, control.faultLog⟩

/-- $00 logs itself only where it is the NOP of `Nop2`. -/
theorem exec_brk_faultLog (n : Byte) : ∃ t, exec (.brk n) s = .next t
    ∧ (lookupTrap s.trapTable n = none ∧ s.cfg.untrappedBrk = .nop2 → t.faultLog = s.faultLog ++ [(s.pc, 0)])
    ∧ (¬ (lookupTrap s.trapTable n = none ∧ s.cfg.untrappedBrk = .nop2) → t.faultLog = s.faultLog) := by
  simp only [exec, execBrk]
  cases lookupTrap s.trapTable n with
  | some handler =>
    have trap : (callTrap handler (s.setPc (s.pc + 2))).faultLog = s.faultLog := by
      obtain ⟨_, _, _, _, after, -⟩ := applyTrap_result (s.setPc (s.pc + 2))
        (Config.trapCallback handler s.draws (s.setPc (s.pc + 2)))
      rw [callTrap, State.setPc_draws, after]
      rfl
    exact ⟨_, rfl, nofun, fun _ => trap⟩
  | none =>
    cases s.cfg.untrappedBrk with
    | nop2 => exact ⟨_, rfl, fun _ => rfl, fun h => absurd ⟨rfl, rfl⟩ h⟩
    | interrupt => exact ⟨_, rfl, nofun, fun _ => by simp [enterInterrupt]⟩

end FaultLog

/-! ### Which bytes decode to an instruction that logs -/

section LoggingOpcodes

variable (c : Params) (b1 b2 : Byte)

theorem decodeBytes_zero : decodeBytes c 0 b1 b2 = .brk b1 := rfl

theorem decodeBytes_ne_brk {op : Byte} (h : op ≠ 0) (n : Byte) : decodeBytes c op b1 b2 ≠ .brk n := fun he =>
  have code : opcodeOf (.brk n) = some op := he ▸ opcodeOf_decodeBytes c op b1 b2
  h (Option.some.inj code).symm

theorem decodeBytes_ne_undef {op : Byte} (h : undefinedOpcode c op = false) (o : Byte) (r : UndefOperand) :
    decodeBytes c op b1 b2 ≠ .undef o r := by
  rw [decodeBytes_defined h]
  exact mapEntry_ne_undef h b1 b2 o r

end LoggingOpcodes

/-! ### Running the instruction at PC -/

section RunLogs

variable (s : State)

/-- A fetch reads an operand byte or leaves it out; either way the control state and PC stay. -/
theorem optionalRead_kept (p : Prop) [Decidable p] (q : Addr) :
    let t := (if p then busRead q s else (0#8, s)).2
    ControlKept s t ∧ t.pc = s.pc := by
  split
  · exact ⟨busRead_control s q, busRead_pc s q⟩
  · exact ⟨.refl s, rfl⟩

/-- A fetch leaves PC on the opcode byte (10_state.md R34), and the control state. -/
theorem fetch_kept : ControlKept s (fetch s).2 ∧ (fetch s).2.pc = s.pc := by
  obtain ⟨k1, pc1⟩ := optionalRead_kept (busRead s.pc s).2 (opcodeLength s.cfg (busRead s.pc s).1 ≥ 2) (s.pc + 1)
  obtain ⟨k2, pc2⟩ := optionalRead_kept (fetchByte1 s.cfg (busRead s.pc s).1 s.pc (busRead s.pc s).2).2
    (opcodeLength s.cfg (busRead s.pc s).1 ≥ 3) (s.pc + 2)
  exact ⟨((busRead_control s s.pc).trans k1).trans k2, (pc2.trans pc1).trans (busRead_pc s s.pc)⟩

/-- The bytes at PC are an undefined opcode, or an untrapped $00 under `Nop2`. -/
def RunLogs : Prop :=
  undefinedOpcode s.cfg (busRead s.pc s).1 = true
    ∨ ((busRead s.pc s).1 = 0 ∧ lookupTrap s.trapTable (busRead (s.pc + 1) (busRead s.pc s).2).1 = none
      ∧ s.cfg.untrappedBrk = .nop2)

variable {s}

theorem runLogs_of_zero (h : (busRead s.pc s).1 = 0) : RunLogs s ↔
    lookupTrap s.trapTable (busRead (s.pc + 1) (busRead s.pc s).2).1 = none ∧ s.cfg.untrappedBrk = .nop2 := by
  have defined : undefinedOpcode s.cfg 0 = false := rfl
  simp only [RunLogs, h, defined, Bool.false_eq_true, false_or, true_and]

theorem runInstr_undefined (h : undefinedOpcode s.cfg (busRead s.pc s).1 = true) :
    ∃ t, runInstr s = .next t ∧ t.faultLog = s.faultLog ++ [(s.pc, (busRead s.pc s).1)] := by
  obtain ⟨kept, pc⟩ := fetch_kept s
  obtain ⟨operand, undef⟩ : ∃ operand, (fetch s).1 = .undef (busRead s.pc s).1 operand :=
    ⟨_, decodeBytes_undefined h _ _⟩
  rw [runInstr, undef, ← kept.faultLog, ← pc]
  exact exec_undef_faultLog _ _ _

theorem runInstr_zero (h : (busRead s.pc s).1 = 0) : ∃ t, runInstr s = .next t
    ∧ (RunLogs s → t.faultLog = s.faultLog ++ [(s.pc, 0)]) ∧ (¬ RunLogs s → t.faultLog = s.faultLog) := by
  obtain ⟨kept, pc⟩ := fetch_kept s
  have two : opcodeLength s.cfg (busRead s.pc s).1 = 2 := by rw [h]; rfl
  have brk : (fetch s).1 = .brk (busRead (s.pc + 1) (busRead s.pc s).2).1 := by
    rw [fetch_two_bytes two, h, decodeBytes_zero]
  rw [runInstr, brk, runLogs_of_zero h, ← kept.faultLog, ← kept.trapTable, ← kept.cfg, ← pc]
  exact exec_brk_faultLog _ _

theorem runInstr_defined (hu : undefinedOpcode s.cfg (busRead s.pc s).1 = false) (h0 : (busRead s.pc s).1 ≠ 0) :
    ∃ t, runInstr s = .next t ∧ t.faultLog = s.faultLog := by
  rw [← (fetch_kept s).1.faultLog]
  exact exec_faultLog_kept (decodeBytes_ne_brk _ _ _ h0) (decodeBytes_ne_undef _ _ _ hu)

variable (s) in
/-- Running one instruction logs it exactly where `RunLogs` says. -/
theorem runInstr_faultLog : ∃ t, runInstr s = .next t
    ∧ (RunLogs s → t.faultLog = s.faultLog ++ [(s.pc, (busRead s.pc s).1)])
    ∧ (¬ RunLogs s → t.faultLog = s.faultLog) := by
  cases hu : undefinedOpcode s.cfg (busRead s.pc s).1 with
  | true =>
    obtain ⟨t, ht, log⟩ := runInstr_undefined hu
    exact ⟨t, ht, fun _ => log, fun hn => absurd (.inl hu) hn⟩
  | false =>
    by_cases h0 : (busRead s.pc s).1 = 0
    · rw [h0]
      exact runInstr_zero h0
    · obtain ⟨t, ht, kept⟩ := runInstr_defined hu h0
      have quiet : ¬ RunLogs s := by simp only [RunLogs, hu, h0, false_and, or_false, Bool.false_eq_true, not_false_eq_true]
      exact ⟨t, ht, fun hl => absurd hl quiet, fun _ => kept⟩

/-- Taking an interrupt logs nothing. -/
theorem cpuStep_entry_faultLog (h : s.nmiPending = true ∨ (s.irqLine = true ∧ s.p.i = false)) :
    ∃ t, cpuStep s = .next t ∧ t.faultLog = s.faultLog := by
  cases hn : s.nmiPending with
  | true => exact ⟨_, cpuStep_nmi hn, by simp [enterInterrupt]⟩
  | false =>
    obtain ⟨hi, hm⟩ := h.resolve_left (Bool.eq_false_iff.1 hn)
    exact ⟨_, cpuStep_irq hn hi hm, by simp [enterInterrupt]⟩

end RunLogs

/-- Settles O41: an entry and the devices leave the log, and an instruction logs as `runInstr_faultLog` says. -/
theorem faultLogGrows : Obligations.FaultLogGrows := by
  intro s op operand interrupted logs
  have clocked (k : Nat) (t : State) : (deviceStep k t).faultLog = t.faultLog := (deviceStep_clock k t).1.faultLog
  by_cases hint : interrupted
  · obtain ⟨t, ht, kept⟩ := cpuStep_entry_faultLog hint
    exact ⟨_, step_of_cpuStep ht, fun h => absurd hint h.1, fun _ => (clocked _ t).trans kept⟩
  · obtain ⟨t, ht, log, kept⟩ := runInstr_faultLog s
    obtain ⟨hn, hi⟩ := noInterrupt_iff.1 hint
    exact ⟨_, step_of_cpuStep ((cpuStep_noInterrupt hn hi).trans ht), fun h => (clocked _ t).trans (log h.2),
      fun h => (clocked _ t).trans (kept fun hr => h ⟨hint, hr⟩)⟩

/-! ## The small host actions (60_exceptions.md R440, 61_timers.md R455, R457, 62_video.md R540) -/

section TrapTable

variable (t u : Byte) (handler : Nat)

theorem lookupTrap_cons (e : Byte × Nat) (l : List (Byte × Nat)) :
    lookupTrap (e :: l) t = if e.1 = t then some e.2 else lookupTrap l t := by
  unfold lookupTrap
  rw [List.find?_cons]
  cases h : e.1 == t with
  | true => exact (if_pos (eq_of_beq h)).symm
  | false => exact (if_neg (ne_of_beq_false h)).symm

/-- A registered index has its callback, and every other index keeps its own. -/
theorem lookupTrap_insertTrap (l : List (Byte × Nat)) :
    lookupTrap (insertTrap t handler l) u = if t = u then some handler else lookupTrap l u := by
  induction l with
  | nil => exact lookupTrap_cons u (t, handler) []
  | cons e rest ih =>
    obtain ⟨i, h⟩ := e
    unfold insertTrap
    split
    case isTrue => rw [lookupTrap_cons]
    case isFalse =>
      split
      case isTrue same =>
        rw [lookupTrap_cons, lookupTrap_cons, same]
        split <;> rfl
      case isFalse differ =>
        rw [lookupTrap_cons, lookupTrap_cons, ih]
        split
        case isTrue hi => rw [if_neg fun ht => differ (ht.trans hi.symm)]
        case isFalse => rfl

end TrapTable

/-- Settles O60: each action is its record update; what a registration makes of the trap table is
`lookupTrap_insertTrap`. -/
theorem hostRequests : Obligations.HostRequests := by
  intro s
  refine ⟨fun k hk => if_pos hk, rfl, fun _ => rfl, rfl, fun t u handler ht => ?trap, fun _ _ _ => rfl,
    fun id v h => ⟨_, if_pos h, List.modify_eq_set_get _ h, rfl⟩, fun _ _ _ => rfl⟩
  case trap =>
    have lookup (k : Byte) := lookupTrap_insertTrap t k handler s.trapTable
    exact ⟨_, rfl, insertTrap_sorted t handler ht, rfl, (lookup t).trans (if_pos rfl),
      fun hu => (lookup u).trans (if_neg hu.symm)⟩

end Sys2Proof.Machine

/-! Proofs of the family 61_timers.md: the loop of `run_cycles` (R452), the timers and the VBL callback (R456 to R461). -/

namespace Sys2Proof.Machine

/-! ## What a step charges (30_encoding.md R136, R141, 46_flags_nop.md R391, 61_timers.md R451) -/

/-- A cost one iteration can have: that of an instruction or an interrupt entry, or `TRAP_CYCLES`. -/
def StepCost (c : Params) (k : Nat) : Prop := (0 < k ∧ k ≤ 9) ∨ k = c.trapCycles.toNat

/-- From `s` to `t` the counter `cycle` moved by the cost of one iteration, and the parameters stayed. -/
structure Clocked (s t : State) : Prop where
  cfg   : t.cfg = s.cfg
  cycle : ∃ k, StepCost s.cfg k ∧ t.cycle = s.cycle + BitVec.ofNat 32 k

theorem formCell_base (i : Instr) : 0 < (formCell i).base ∧ (formCell i).base ≤ 7 := by
  cases i with
  | lda m | ldx m | ldy m | adc m | sbc m | cmp m | cpx m | cpy m | and m | ora m | eor m | bit m =>
    rcases m with _ | ⟨_ | _⟩ <;> exact ⟨Nat.succ_pos _, Nat.le_of_ble_eq_true rfl⟩
  | sta m | stx m | sty m | stz m | inc m | dec m | asl m | lsr m | rol m | ror m | tsb m | trb m | jmp m =>
    cases m <;> exact ⟨Nat.succ_pos _, Nat.le_of_ble_eq_true rfl⟩
  | _ => exact ⟨Nat.succ_pos _, Nat.le_of_ble_eq_true rfl⟩

theorem penalty_le (cell : CycleCell) (i : Instr) (s : State) : penalty cell i s ≤ 2 := by
  have page := Bool.toNat_le (crossesPage i s)
  have decimal := Bool.toNat_le s.p.d
  cases cell with
  | n _ | u _ => exact Nat.zero_le 2
  | p _ | d _ | pd _ => simp only [penalty]; omega
  | b _ => simp only [penalty]; split <;> omega

theorem wdcCycles_mem (op : Byte) : wdcCycles op ∈ [1, 2, 3, 4, 8] := by
  by_cases h : isBitOpcode op = true
  · exact wdcCycles_bitOpcode h
  · rw [wdcCycles, if_neg h]
    split_ifs <;> decide

section Clocking

variable {s : State}

theorem Clocked.of_small {t : State} {k : Nat} (hcfg : t.cfg = s.cfg) (cost : Costs k s t) (hk : 0 < k ∧ k ≤ 9) :
    Clocked s t :=
  ⟨hcfg, k, .inl hk, cost.cycle⟩

theorem enterInterrupt_clocked (vector : Addr) (b : Bool) (t : State) (hcfg : t.cfg = s.cfg) (hc : t.cycle = s.cycle) :
    Clocked s ((enterInterrupt vector b t).charge 7) :=
  ⟨by simp [enterInterrupt, hcfg], 7, .inl (by decide), by simp [enterInterrupt, hc]⟩

theorem callsTrap_eq_false {i : Instr} (hb : ∀ n, i ≠ .brk n) : callsTrap i s = false := by
  cases i with
  | brk n => exact absurd rfl (hb n)
  | _ => rfl

theorem exec_defined_clocked {i : Instr} (hb : ∀ n, i ≠ .brk n) (hu : ∀ o r, i ≠ .undef o r) :
    ∃ t, exec i s = .next t ∧ Clocked s t := by
  obtain ⟨t, ht, cost⟩ := exec_costs s hb hu
  obtain ⟨u, hu, kept⟩ := exec_storesByRule i s (callsTrap_eq_false hb)
  obtain rfl : t = u := by rw [ht] at hu; cases hu; rfl
  have base := formCell_base i
  have extra := penalty_le (formCell i) i s
  exact ⟨t, ht, .of_small kept.requests.cfg cost (by omega)⟩

theorem exec_undef_clocked (op : Byte) (operand : UndefOperand) :
    ∃ t, exec (.undef op operand) s = .next t ∧ Clocked s t := by
  cases hp : s.cfg.undefPolicy with
  | docNop2 =>
    obtain ⟨t, ht, -, -, cost, -, -, control⟩ := exec_undef_docNop2 op operand s hp
    exact ⟨t, ht, .of_small control.cfg cost (by decide)⟩
  | wdc =>
    obtain ⟨t, ht, -, -, cost, -, -, control⟩ := exec_undef_wdc op operand s hp ⟨rfl, rfl⟩
    have small : ∀ k ∈ [1, 2, 3, 4, 8], 0 < k ∧ k ≤ 9 := by decide
    exact ⟨t, ht, .of_small control.cfg cost (small _ (wdcCycles_mem op))⟩

/-- The trap opcode takes `TRAP_CYCLES` where it calls a callback, which does not touch the counters. -/
theorem exec_brk_clocked (n : Byte) : ∃ t, exec (.brk n) s = .next t ∧ Clocked s t := by
  simp only [exec, execBrk]
  cases lookupTrap s.trapTable n with
  | some handler =>
    refine ⟨_, rfl, ?_⟩
    obtain ⟨_, _, _, _, after, -⟩ := applyTrap_result (s.setPc (s.pc + 2))
      (Config.trapCallback handler s.draws (s.setPc (s.pc + 2)))
    rw [callTrap, State.setPc_draws, after]
    exact ⟨rfl, _, .inr rfl, rfl⟩
  | none =>
    cases s.cfg.untrappedBrk with
    | nop2 => exact ⟨_, rfl, .of_small (k := 2) rfl ⟨rfl, rfl⟩ (by decide)⟩
    | interrupt => exact ⟨_, rfl, enterInterrupt_clocked _ _ (s.setPc (s.pc + 2)) rfl rfl⟩

theorem exec_clocked (i : Instr) (s : State) : ∃ t, exec i s = .next t ∧ Clocked s t := by
  cases i with
  | brk n => exact exec_brk_clocked n
  | undef op operand => exact exec_undef_clocked op operand
  | _ => exact exec_defined_clocked nofun nofun

theorem fetch_cycle : (fetch s).2.cycle = s.cycle := by
  have optional (p : Prop) [Decidable p] (q : Addr) (t : State) :
      (if p then busRead q t else (0#8, t)).2.cycle = t.cycle := by
    split
    · exact busRead_cycle t q
    · rfl
  exact ((optional _ _ _).trans (optional _ _ _)).trans (busRead_cycle s s.pc)

theorem cpuStep_clocked : ∃ t, cpuStep s = .next t ∧ Clocked s t := by
  unfold cpuStep
  split
  · exact ⟨_, rfl, enterInterrupt_clocked _ _ { s with nmiPending := false } rfl rfl⟩
  · split
    · exact ⟨_, rfl, enterInterrupt_clocked _ _ s rfl rfl⟩
    · obtain ⟨t, ht, cfg, k, hk, cycle⟩ := exec_clocked (fetch s).1 (fetch s).2
      rw [(fetch_kept s).1.cfg] at cfg hk
      rw [fetch_cycle] at cycle
      exact ⟨t, ht, cfg, k, hk, cycle⟩

theorem step_clocked : ∃ t, step s = .next t ∧ Clocked s t := by
  obtain ⟨t, ht, cfg, k, hk, cycle⟩ := cpuStep_clocked (s := s)
  obtain ⟨frame, -, -⟩ := deviceStep_clock (charged s t) t
  exact ⟨_, step_of_cpuStep ht, frame.cfg.trans cfg, k, hk, by rw [frame.cost.cycle, cycle]; simp⟩

/-- Below 2³⁰ the counter cannot wrap in one iteration, so it rises. -/
theorem Clocked.cycle_lt {t : State} (h : Clocked s t) (hc : s.cycle.toNat < 0x40000000)
    (low : 1 ≤ s.cfg.trapCycles.toNat) (high : s.cfg.trapCycles.toNat ≤ 0x40000000) : s.cycle.toNat < t.cycle.toNat := by
  obtain ⟨-, k, hk, he⟩ := h
  unfold StepCost at hk
  rw [he, BitVec.toNat_add, BitVec.toNat_ofNat]
  omega

end Clocking

/-! ## The loop of `run_cycles` (61_timers.md R452) -/

section RunLoop

variable {n : Nat} {s : State}

theorem runs_eq_true_iff : runs n s = true ↔ s.cycle.toNat < n ∧ s.instructionRun ≠ 0 := by
  simp [runs]

theorem runs_eq_false_iff : runs n s = false ↔ n ≤ s.cycle.toNat ∨ s.instructionRun = 0 := by
  rw [← Bool.not_eq_true, runs_eq_true_iff]
  omega

/-- Where its test fails the loop answers at once. -/
theorem runLoop_of_not_runs (h : runs n s = false) (fuel : Nat) : runLoop n fuel s = .next s := by
  cases fuel <;> simp [runLoop, h]

theorem runLoop_of_step {t : State} (h : runs n s = true) (ht : step s = .next t) (fuel : Nat) :
    runLoop n (fuel + 1) s = runLoop n fuel t := by
  simp [runLoop, h, ht]

/-- Every iteration raises the counter, so the loop ends within as many as are missing to `n`. -/
theorem runLoop_terminates (hn : n ≤ 0x40000000) (fuel : Nat) (hf : n ≤ s.cycle.toNat + fuel)
    (low : 1 ≤ s.cfg.trapCycles.toNat) (high : s.cfg.trapCycles.toNat ≤ 0x40000000) : ∃ t, runLoop n fuel s = .next t := by
  induction fuel generalizing s with
  | zero => exact ⟨s, runLoop_of_not_runs (runs_eq_false_iff.2 (.inl hf)) 0⟩
  | succ fuel ih =>
    cases hr : runs n s with
    | false => exact ⟨s, runLoop_of_not_runs hr _⟩
    | true =>
      obtain ⟨t, ht, clocked⟩ := step_clocked (s := s)
      have below := (runs_eq_true_iff.1 hr).1
      have rises := clocked.cycle_lt (by omega) low high
      rw [runLoop_of_step hr ht]
      exact ih (by omega) (by rwa [clocked.cfg]) (by rwa [clocked.cfg])

end RunLoop

/-- Settles O45: the equations of the loop, and `runLoop_terminates` for its end. -/
theorem runCyclesEnds : Obligations.RunCyclesEnds := by
  intro n s
  refine ⟨fun fuel => runLoop_of_not_runs (runs_eq_false_iff.2 (.inl (Nat.zero_le _))) fuel, fun _ => rfl,
    fun fuel h => runLoop_of_not_runs (runs_eq_false_iff.2 h) fuel,
    fun fuel t hc hi ht => runLoop_of_step (runs_eq_true_iff.2 ⟨hc, hi⟩) ht fuel,
    fun fuel t h => runs_eq_false_iff.1 (runLoop_ends fuel h), fun fuel more t hle h => runLoop_mono fuel more h hle,
    fun hn low high => runLoop_terminates hn n (Nat.le_add_left _ _) low high⟩

/-! ## Timers and the VBL callback (61_timers.md R456, R458, R461) -/

/-- At any speed the fall of a timer differs from the exact product by less than one (R458). -/
theorem speedCycles_near (sp : Speed) (k : Nat) :
    speedCycles sp k * (sp.denLess1 + 1) < k * (sp.denLess1 + 1 + sp.extraNum) + (sp.denLess1 + 1)
      ∧ k * (sp.denLess1 + 1 + sp.extraNum) < speedCycles sp k * (sp.denLess1 + 1) + (sp.denLess1 + 1) := by
  obtain ⟨below, above⟩ := roundQuotient_near (d := sp.denLess1 + 1) (Nat.succ_pos _) (k * sp.extraNum)
    (Config.speedRoundsUp (k * sp.extraNum) (sp.denLess1 + 1))
  simp only [speedCycles, Nat.add_mul, Nat.mul_add, Nat.mul_comm (roundQuotient _ _ _)] at *
  omega

section TimerStep

variable {k : Nat} {t : Timer} {s : State}

theorem stepTimer_stopped (h : t.remaining = 0#64) : stepTimer k t s = (t, s) := if_pos h

theorem stepTimer_due (h : t.remaining ≠ 0#64) (due : t.remaining.toInt - speedCycles s.speed k ≤ 0) :
    stepTimer k t s = ({ t with remaining := (runCallback t.callback s).1 }, (runCallback t.callback s).2) := by
  rw [stepTimer, if_neg h, if_pos due]

theorem stepTimer_running (h : t.remaining ≠ 0#64) (running : 0 < t.remaining.toInt - speedCycles s.speed k) :
    stepTimer k t s = ({ t with remaining := t.remaining - BitVec.ofNat 64 (speedCycles s.speed k) }, s) := by
  have stored : BitVec.ofInt 64 (t.remaining.toInt - speedCycles s.speed k)
      = t.remaining - BitVec.ofNat 64 (speedCycles s.speed k) := by
    rw [Int.sub_eq_add_neg, BitVec.ofInt_add, BitVec.ofInt_neg, BitVec.ofInt_toInt, BitVec.ofInt_natCast,
      BitVec.sub_eq_add_neg]
  rw [stepTimer, if_neg h, if_neg (Int.not_le.2 running), stored]

theorem vblCallback_visible (h : s.video.vblPhase = .visible) : vblCallback s = (4550#64,
    { s with
      sw := { s.sw with vbl := true }
      video := { s.video with vblPhase := .blanking, frameCount := s.video.frameCount + 1 } }) := by
  rw [vblCallback, h]
  rfl

theorem vblCallback_blanking (h : s.video.vblPhase = .blanking) : vblCallback s = (12480#64,
    { s with sw := { s.sw with vbl := false }, video := { s.video with vblPhase := .visible, line := 0 } }) := by
  rw [vblCallback, h]
  rfl

end TimerStep

/-- Settles O46: the three cases of `stepTimer`, the list timer by timer, and the two phases of the VBL callback. -/
theorem timerAndVblRules : Obligations.TimerAndVblRules := by
  intro k t rest s fall den
  have near := speedCycles_near s.speed k
  refine ⟨fun h => ?unit, near.1, near.2, stepTimer_stopped, stepTimer_running, stepTimer_due, rfl, rfl, rfl, fun _ => rfl,
    vblCallback_visible, vblCallback_blanking⟩
  case unit => simp only [fall, h, speedCycles_unit]

end Sys2Proof.Machine

/-! Proofs of the family 62_video.md: modes and screen addresses (R504, R505, R510), the pixels of a line (R506 to R521), and
the frame with its colour tables (R500 to R503, R530). -/

namespace Sys2Proof.Machine

/-! ## Modes (62_video.md R504) -/

section Modes

variable {sw : SoftSwitches} {y : Nat}

theorem SoftSwitches.isDhgr_iff :
    sw.isDhgr = true ↔ sw.dhires = true ∧ (sw.col80 = true ∨ sw.an3Mode = 1#2 ∨ sw.an3Mode = 2#2) := by
  simp [SoftSwitches.isDhgr, or_assoc]

theorem lineMode_text (h : sw.text = true) : sw.lineMode y = sw.textMode := if_pos h

theorem lineMode_mixed (ht : sw.text = false) (hm : sw.mixed = true) (hy : 160 ≤ y) : sw.lineMode y = sw.textMode := by
  simp [SoftSwitches.lineMode, ht, hm, hy]

/-- A line that shows no text shows the graphics mode. -/
theorem lineMode_graphics (ht : sw.text = false) (hm : sw.mixed = false ∨ y < 160) :
    sw.lineMode y = if sw.hires then (if sw.isDhgr then .dhgr else .hgr) else .loRes := by
  have noText : (sw.mixed && decide (y ≥ 160)) = false := by
    obtain h | h := hm
    · rw [h, Bool.false_and]
    · rw [decide_eq_false (by omega), Bool.and_false]
  rw [SoftSwitches.lineMode, ht, noText]
  rfl

end Modes

/-! ## Screen addresses (62_video.md R505, R510) -/

theorem and_seven (n : Nat) : n &&& 7 = n % 8 := Nat.and_two_pow_sub_one_eq_mod n 3

/-- The rows of a page interleave by eighths: the row within its eighth counts 128 bytes, the eighth 40. -/
theorem textAddr_eq (page2 : Bool) (r c : Nat) :
    textAddr page2 r c = (if page2 then 0x800 else 0x400) + (r &&& 7) * 0x80 + (r >>> 3) * 0x28 + c := by
  rw [and_seven, Nat.shiftRight_eq_div_pow]
  rfl

theorem hiresAddr_eq (page2 : Bool) (y : Nat) :
    hiresAddr page2 y
      = (if page2 then 0x4000 else 0x2000) + (y &&& 7) * 0x400 + ((y >>> 3) &&& 7) * 0x80 + (y >>> 6) * 0x28 := by
  rw [and_seven, and_seven, Nat.shiftRight_eq_div_pow, Nat.shiftRight_eq_div_pow]
  rfl

theorem textAddr_mem {r c : Nat} (page2 : Bool) (hr : r < 24) (hc : c < 40) :
    (if page2 then 0x800 else 0x400) ≤ textAddr page2 r c
      ∧ textAddr page2 r c < (if page2 then 0x800 else 0x400) + 0x400 := by
  unfold textAddr
  omega

theorem hiresAddr_mem {y c : Nat} (page2 : Bool) (hy : y < 192) (hc : c < 40) :
    (if page2 then 0x4000 else 0x2000) ≤ hiresAddr page2 y + c
      ∧ hiresAddr page2 y + c < (if page2 then 0x4000 else 0x2000) + 0x2000 := by
  unfold hiresAddr
  omega

theorem textAddr_injective {page2 : Bool} {r c r' c' : Nat} (hr : r < 24) (hc : c < 40) (hr' : r' < 24) (hc' : c' < 40)
    (h : textAddr page2 r c = textAddr page2 r' c') : r = r' ∧ c = c' := by
  unfold textAddr at h
  have offset : r / 8 * 0x28 + c < 0x80 := by omega
  have offset' : r' / 8 * 0x28 + c' < 0x80 := by omega
  have low : r % 8 = r' % 8 := by omega
  have high : r / 8 = r' / 8 := by omega
  omega

theorem hiresAddr_injective {page2 : Bool} {y c y' c' : Nat} (hy : y < 192) (hc : c < 40) (hy' : y' < 192) (hc' : c' < 40)
    (h : hiresAddr page2 y + c = hiresAddr page2 y' + c') : y = y' ∧ c = c' := by
  unfold hiresAddr at h
  have low : y % 8 = y' % 8 := by omega
  have middle : y / 8 % 8 = y' / 8 % 8 := by omega
  have high : y / 64 = y' / 64 := by omega
  omega

/-- Settles O56: the branches of `lineMode`, and the interleavings, which are injective. -/
theorem videoModesAndAddresses : Obligations.VideoModesAndAddresses := by
  refine ⟨fun sw y => ?modes, fun page2 r c r' c' hr hc hr' hc' => ?text, fun page2 y c y' c' hy hc hy' hc' => ?hires⟩
  case modes =>
    refine ⟨lineMode_text, lineMode_mixed, fun ht hm hh hd => ?dhgr, fun ht hm hh hd => ?hgr, fun ht hm hh => ?loRes, ?page⟩
    case dhgr => rw [lineMode_graphics ht hm, hh, SoftSwitches.isDhgr_iff.2 hd]; rfl
    case hgr => rw [lineMode_graphics ht hm, hh, Bool.eq_false_iff.2 (mt SoftSwitches.isDhgr_iff.1 hd)]; rfl
    case loRes => rw [lineMode_graphics ht hm, hh]; rfl
    case page => unfold SoftSwitches.effectivePage2; cases sw.store80 <;> rfl
  case text =>
    exact ⟨textAddr_eq page2 r c, (textAddr_mem page2 hr hc).1, (textAddr_mem page2 hr hc).2,
      textAddr_injective hr hc hr' hc'⟩
  case hires =>
    exact ⟨hiresAddr_eq page2 y, (hiresAddr_mem page2 hy hc).1, (hiresAddr_mem page2 hy hc).2,
      hiresAddr_injective hy hc hy' hc'⟩

/-! ## The pixels of a line (62_video.md R506 to R521) -/

section Pixels

variable {s : State} {y x : Nat}

theorem linePixel_text40 (h : s.sw.lineMode y = .text40) : linePixel s y x = text40Pixel s y x := by rw [linePixel, h]

theorem linePixel_text80 (h : s.sw.lineMode y = .text80) : linePixel s y x = text80Pixel s y x := by rw [linePixel, h]

theorem linePixel_loRes (h : s.sw.lineMode y = .loRes) : linePixel s y x = loResPixel s y x := by rw [linePixel, h]

theorem linePixel_hgr (h : s.sw.lineMode y = .hgr) : linePixel s y x = hgrPixel s y x := by rw [linePixel, h]

theorem linePixel_dhgr (h : s.sw.lineMode y = .dhgr) : linePixel s y x = dhgrPixel s y x := by rw [linePixel, h]

/-- White or black, as a bit says (R507). -/
theorem monoPixel_eq (b : Bool) : monoPixel b = ⟨if b then 15#4 else 0#4, false⟩ := by cases b <;> rfl

theorem getLsbD_four_iff (v : BitVec 32) : v.getLsbD 4 = true ↔ v &&& 0x10#32 ≠ 0#32 := by
  have single : v &&& 0x10#32 = if v.getLsbD 4 then 0x10#32 else 0#32 := BitVec.and_twoPow v 4
  rw [single]
  cases v.getLsbD 4 <;> decide

/-- The flashing codes are those of the second quarter, and flash with `frame_count & $10` (R506). -/
theorem charCode_eq (alt : Bool) (fc : BitVec 32) (b : Byte) :
    charCode alt fc b = if alt = false ∧ 0x40 ≤ b.toNat ∧ b.toNat < 0x80 then
      (if fc &&& 0x10#32 ≠ 0#32 then b + 0x40#8 else b - 0x40#8) else b := by
  simp only [charCode, ← getLsbD_four_iff, Nat.lt_succ_iff]

theorem colourPixel_index (i : BitVec 4) : (colourPixel s y x i).index = i := by
  unfold colourPixel
  split <;> rfl

/-- Black and white are not dimmed (R512). -/
theorem colourPixel_dim (i : BitVec 4) (h : (colourPixel s y x i).index = 0#4 ∨ (colourPixel s y x i).index = 15#4) :
    (colourPixel s y x i).dim = false := by
  rw [colourPixel_index] at h
  rw [colourPixel, if_pos h]
  rfl

theorem hgrPixel_border (h : x < 20 ∨ 300 ≤ x) : hgrPixel s y x = ⟨0#4, false⟩ := if_pos h

theorem hgrPixel_inside (h : 20 ≤ x) (h' : x < 300) : hgrPixel s y x = colourPixel s y x (hgrIndex s y (x - 20)) :=
  if_neg (by omega)

theorem dhgrBit_eq (p : Nat) : dhgrBit s y p
    = (decide (2 ≤ p ∧ p < 562) && (dhgrByte s y ((p - 2) / 7)).getLsbD ((p - 2) % 7)) := by
  rw [dhgrBit, Bool.decide_and]

theorem dhgrWindow_eq (p : Nat) : dhgrWindow s y p = (dhgrBit s y p).toNat + 2 * (dhgrBit s y (p + 1)).toNat
    + 4 * (dhgrBit s y (p + 2)).toNat + 8 * (dhgrBit s y (p + 3)).toNat := by
  simp only [dhgrWindow, Nat.mul_comm]

theorem dhgrPixel_mono (h : s.video.monochrome = true) : dhgrPixel s y x = monoPixel (dhgrBit s y (x * 7 / 4)) := if_pos h

theorem dhgrPixel_colour (h : s.video.monochrome = false) : dhgrPixel s y x
    = colourPixel s y x (dhgrColour s.cfg (x * 7 / 4 % 4) (dhgrWindow s y (x * 7 / 4))) :=
  if_neg (Bool.eq_false_iff.1 h)

theorem text40Pixel_eq : text40Pixel s y x
    = monoPixel (decide (x % 8 ≠ 7) && (glyphLine s (textByte s .main (y / 8) (x / 8)) (y % 8)).getLsbD (x % 8)) := by
  unfold text40Pixel
  split <;> simp [*, monoPixel]

/-- Two columns of a glyph make one of the four pixels, the seventh the last (R508). -/
theorem text80Pixel_eq {j : Nat} (h : x % 4 = j) : text80Pixel s y x =
    let g := glyphLine s (textByte s (if x / 4 % 2 = 0 then .aux else .main) (y / 8) (x / 8)) (y % 8)
    if j = 3 then monoPixel (g.getLsbD 6) else monoPixel (g.getLsbD (2 * j) || g.getLsbD (2 * j + 1)) := by
  rw [← h]
  rfl

end Pixels

/-- Settles O57: each mode's pixel by the equation of its mode. -/
theorem linePixels : Obligations.LinePixels := by
  intro s y x _ _
  have code (b : Byte) := charCode_eq s.sw.altCharset s.video.frameCount b
  refine ⟨fun h => ?text40, fun h => ?text80, fun h => ?loRes, fun h hx => ?border, fun h hl hr => ?hgr,
    fun h hm => ?dhgrMono, fun h hm => ?dhgrColour⟩
  case text40 =>
    rw [linePixel_text40 h, text40Pixel_eq, monoPixel_eq, glyphLine, code]
    rfl
  case text80 =>
    refine ⟨fun hj => ?_, fun hj => ?_, fun hj => ?_, fun hj => ?_⟩ <;>
    · rw [linePixel_text80 h, text80Pixel_eq hj, glyphLine, code]
      exact monoPixel_eq _
  case loRes =>
    rw [linePixel_loRes h, loResPixel]
    split <;> rfl
  case border => rw [linePixel_hgr h, hgrPixel_border hx]
  case hgr =>
    rw [linePixel_hgr h, hgrPixel_inside hl hr]
    exact ⟨colourPixel_index _, colourPixel_dim _⟩
  case dhgrMono =>
    rw [linePixel_dhgr h, dhgrPixel_mono hm, monoPixel_eq, dhgrBit_eq]
    rfl
  case dhgrColour =>
    rw [linePixel_dhgr h, dhgrPixel_colour hm]
    refine ⟨(colourPixel_index _).trans ?_, colourPixel_dim _⟩
    rw [dhgrWindow_eq, dhgrBit_eq, dhgrBit_eq, dhgrBit_eq, dhgrBit_eq]
    rfl

/-! ## The colour tables (62_video.md R530) -/

/-- The byte is less than one from the quotient `n / d`. -/
def Near (n d : Nat) (v : Byte) : Prop := n < d * v.toNat + d ∧ d * v.toNat < n + d

/-- A quotient of at most 255 is rounded to a byte. -/
theorem near_roundQuotient {n d : Nat} (hd : 0 < d) (hn : n ≤ d * 255) (up : Bool) :
    Near n d (BitVec.ofNat 8 (roundQuotient n d up)) := by
  have near := roundQuotient_near hd n up
  have byte : roundQuotient n d up < 256 := by
    by_contra large
    have := Nat.mul_le_mul_left d (Nat.le_of_not_lt large)
    omega
  rwa [Near, BitVec.toNat_ofNat, Nat.mod_eq_of_lt byte]

theorem luminance_le (c : Rgb) : luminance c ≤ 2550000 := by
  have := c.1.isLt
  have := c.2.1.isLt
  have := c.2.2.isLt
  unfold luminance
  omega

theorem near_monoComponent (b : Byte) (c : Rgb) (up : Bool) :
    Near (b.toNat * luminance c) 2550000 (monoComponent b (luminance c) up) := by
  refine near_roundQuotient (by decide) ?_ up
  rw [Nat.mul_comm]
  exact Nat.mul_le_mul (luminance_le c) (Nat.le_of_lt_succ b.isLt)

theorem near_dimComponent_mono (top : Nat) (v : Byte) (up : Bool) : Near v.toNat 2 (dimComponent true top v up) :=
  near_roundQuotient (by decide) (by have := v.isLt; omega) up

theorem near_dimComponent_colour {top : Nat} (h : top ≤ 255) (v : Byte) (up : Bool) :
    Near (3 * top + 9 * v.toNat) 16 (dimComponent false top v up) :=
  near_roundQuotient (by decide) (by have := v.isLt; omega) up

theorem Rgb.top_le (c : Rgb) : Rgb.top c ≤ 255 := by
  have := c.1.isLt
  have := c.2.1.isLt
  have := c.2.2.isLt
  unfold Rgb.top
  omega

theorem amberPalette_lt : amberPalette < 6 := Nat.mod_lt _ (by decide)

theorem amberPalette_ne_green : amberPalette ≠ Config.greenPalette.val := by
  have := Config.greenPalette.isLt
  have := Config.amberOffset.isLt
  unfold amberPalette
  omega

theorem showsMonochrome_iff {m : Bool} {p : Nat} :
    showsMonochrome m p = true ↔ m = true ∨ p = Config.greenPalette.val ∨ p = amberPalette := by
  simp [showsMonochrome, or_assoc]

theorem getD_map_range {α : Type} (f : Nat → α) {n i : Nat} (h : i < n) (d : α) : ((List.range n).map f).getD i d = f i := by
  simp [List.getD_eq_getElem?_getD, h]

/-- A colour of `clut` and its dimmed one, in a palette not shown in monochrome. -/
theorem clut_colour (p i : Nat) :
    let col := clutColour false p i
    let low := clutLowColour false p i
    col = paletteColour p i ∧ Near (3 * Rgb.top col + 9 * col.1.toNat) 16 low.1
      ∧ Near (3 * Rgb.top col + 9 * col.2.1.toNat) 16 low.2.1 ∧ Near (3 * Rgb.top col + 9 * col.2.2.toNat) 16 low.2.2 := by
  have near (c : Rgb) := near_dimComponent_colour (Rgb.top_le c)
  exact ⟨rfl, near _ _ _, near _ _ _, near _ _ _⟩

/-- A colour of `clut` and its dimmed one, in a palette shown in monochrome. -/
theorem clut_mono (p i : Nat) :
    let hue := Config.monoHue p
    let lum := luminance (paletteColour (Config.monoSource p).val i)
    let col := clutColour true p i
    let low := clutLowColour true p i
    Near (hue.1.toNat * lum) 2550000 col.1 ∧ Near (hue.2.1.toNat * lum) 2550000 col.2.1
      ∧ Near (hue.2.2.toNat * lum) 2550000 col.2.2
      ∧ Near col.1.toNat 2 low.1 ∧ Near col.2.1.toNat 2 low.2.1 ∧ Near col.2.2.toNat 2 low.2.2 :=
  ⟨near_monoComponent _ _ _, near_monoComponent _ _ _, near_monoComponent _ _ _, near_dimComponent_mono _ _ _,
    near_dimComponent_mono _ _ _, near_dimComponent_mono _ _ _⟩

/-! ## The frame (62_video.md R500, R501, R503) -/

theorem frame_pixel (s : State) {row col : Nat} (hr : row < 240) (hc : col < 320) (d : Pixel) :
    ((frame s).getD row []).getD col d = framePixel s row col := by
  rw [frame, getD_map_range _ hr, getD_map_range _ hc]

theorem framePixel_border (s : State) {row : Nat} (h : row < 24 ∨ 216 ≤ row) (col : Nat) :
    framePixel s row col = ⟨0#4, false⟩ := if_pos h

theorem framePixel_line (s : State) {y : Nat} (h : y < 192) (col : Nat) : framePixel s (24 + y) col = linePixel s y col := by
  rw [framePixel, if_neg (by omega), Nat.add_sub_cancel_left]

/-- Settles O55: the frame pixel by pixel, what `renderFrame` keeps, and the tables entry by entry. -/
theorem renderFrameShape : Obligations.RenderFrameShape := by
  intro s t
  refine ⟨(frame_size s).1, (frame_size s).2, fun r x hr hx => ?border, fun y x hy hx => ?line, rfl, rfl, ?cost, ⟨rfl, rfl⟩,
    ⟨rfl, rfl, rfl, rfl, rfl, rfl, rfl, rfl⟩, rfl, rfl, rfl, rfl, rfl, paletteClut_length _ _, paletteClutLow_length _ _,
    amberPalette_lt, amberPalette_ne_green, fun i hi => ?table⟩
  case border => exact (frame_pixel s (by omega) hx _).trans (framePixel_border s (by omega) x)
  case line => exact (frame_pixel s (by omega) hx _).trans (framePixel_line s hy x)
  case cost => exact ⟨(BitVec.add_zero _).symm, (BitVec.add_zero _).symm⟩
  case table =>
    intro selected pal near colour source lum mono hue col low top
    have hcol : col = clutColour (showsMonochrome s.video.monochrome pal) pal i := getD_map_range _ hi _
    have hlow : low = clutLowColour (showsMonochrome s.video.monochrome pal) pal i := getD_map_range _ hi _
    refine ⟨fun h => ?colour, fun h => ?mono⟩
    case colour =>
      rw [Bool.eq_false_iff.2 (mt showsMonochrome_iff.1 h)] at hcol hlow
      simp only [top, hcol, hlow]
      exact clut_colour pal i
    case mono =>
      rw [showsMonochrome_iff.2 h] at hcol hlow
      simp only [hcol, hlow]
      exact clut_mono pal i

end Sys2Proof.Machine

/-! Proofs of the family 63_audio.md: the speaker click (R563), the drain and the sync (R570, R575, R578). -/

namespace Sys2Proof.Machine

/-! ## The ring entries of a click (63_audio.md R563) -/

/-- The samples written and not yet drained. -/
def Audio.unread (c : Params) (au : Audio) : Nat := (au.write + c.ringN - au.read) % c.ringN

section Ring

variable {c : Params} {au : Audio}

theorem succ_mod_eq {i n : Nat} (h : i < n) : (i + 1) % n = if i + 1 = n then 0 else i + 1 := by
  split
  case isTrue he => rw [he, Nat.mod_self]
  case isFalse he => exact Nat.mod_eq_of_lt (by omega)

theorem Audio.unread_eq (h : audioOk c au) :
    au.unread c = if au.read ≤ au.write then au.write - au.read else au.write + c.ringN - au.read := by
  obtain ⟨-, hw, hr, -⟩ := h
  unfold Audio.unread
  split
  case isTrue hle =>
    have shifted : au.write + c.ringN - au.read = au.write - au.read + c.ringN := by omega
    rw [shifted, Nat.add_mod_right, Nat.mod_eq_of_lt (by omega)]
  case isFalse => exact Nat.mod_eq_of_lt (by omega)

/-- One entry is one more unread sample, until only the slot that tells a full ring from an empty one is left. -/
theorem Audio.unread_push (hc : c.accepted = true) (h : audioOk c au) :
    (au.push c).unread c = min (au.unread c + 1) (c.ringN - 1) := by
  rw [Audio.unread_eq (Audio.push_ok hc h), Audio.unread_eq h]
  obtain ⟨-, hw, hr, -⟩ := h
  simp only [Audio.push, succ_mod_eq hw, succ_mod_eq hr]
  split_ifs <;> omega

theorem Audio.unread_pushes (hc : c.accepted = true) (n : Nat) (h : audioOk c au) :
    (au.pushes c n).unread c = min (au.unread c + n) (c.ringN - 1) := by
  induction n generalizing au with
  | zero =>
    have := Nat.mod_lt (au.write + c.ringN - au.read) (ringN_pos hc)
    simp only [Audio.pushes, Audio.unread]
    omega
  | succ n ih =>
    rw [Audio.pushes, ih (Audio.push_ok hc h), Audio.unread_push hc h]
    omega

/-- Entries change the ring and its two positions only. -/
theorem Audio.pushes_result (n : Nat) (hw : au.write < c.ringN) : ∃ ring read, au.pushes c n =
    { au with ring := ring, write := (au.write + n) % c.ringN, read := read } := by
  induction n generalizing au with
  | zero => exact ⟨au.ring, au.read, by rw [Audio.pushes, Nat.add_zero, Nat.mod_eq_of_lt hw]⟩
  | succ n ih =>
    obtain ⟨ring, read, rest⟩ := ih (au := au.push c) (Nat.mod_lt _ (Nat.zero_lt_of_lt hw))
    refine ⟨ring, read, rest.trans ?_⟩
    simp only [Audio.push, Nat.mod_add_mod, Nat.add_assoc, Nat.add_comm 1]

theorem Audio.pushes_write (n : Nat) (hw : au.write < c.ringN) : (au.pushes c n).write = (au.write + n) % c.ringN := by
  obtain ⟨_, _, entries⟩ := Audio.pushes_result n hw
  rw [entries]

/-- The slots reached hold the speaker value, every other slot what it held. -/
theorem Audio.pushes_ring (n : Nat) (h : audioOk c au) (hc : c.accepted = true) (k : Nat) :
    (au.pushes c n).ring[k]? = if ∃ j < n, k = (au.write + j) % c.ringN then some au.speaker else au.ring[k]? := by
  induction n generalizing au with
  | zero => simp [Audio.pushes]
  | succ n ih =>
    have ⟨hlen, hw, _⟩ := h
    have slot : (au.push c).ring[k]? = if k = au.write then some au.speaker else au.ring[k]? := by
      simp only [Audio.push, List.getElem?_set, hlen, hw, if_true, eq_comm]
    have rest (j : Nat) : ((au.write + 1) % c.ringN + j) % c.ringN = (au.write + (j + 1)) % c.ringN := by
      rw [Nat.mod_add_mod, Nat.add_assoc, Nat.add_comm 1]
    simp only [Audio.pushes, ih (Audio.push_ok hc h), slot, Nat.exists_lt_succ_left, Nat.add_zero, Nat.mod_eq_of_lt hw]
    simp only [Audio.push, rest]
    by_cases here : k = au.write
    · simp only [ite_self, here, true_or, if_true]
    · simp only [here, false_or, if_false]

end Ring

/-! ## The click (63_audio.md R563) -/

section Click

variable {c : Params} {au : Audio} {cyc : Nat}

theorem Audio.click_early (h : samplePos c cyc ≤ au.currentSample) : au.click c cyc = { au with speaker := -au.speaker } :=
  if_pos h

theorem Audio.click_anchor (hc : c.accepted = true) (h : au.currentSample + c.sampleBufferOffset ≤ samplePos c cyc) :
    au.click c cyc = { au with
      write := (au.read + c.sampleBufferOffset) % c.ringN, currentSample := samplePos c cyc, speaker := -au.speaker } := by
  have offset := (Params.accepted_iff.1 hc).1
  rw [Audio.click, if_neg (by omega), if_pos (by omega)]

theorem Audio.click_between (h : au.currentSample < samplePos c cyc)
    (h' : samplePos c cyc < au.currentSample + c.sampleBufferOffset) :
    au.click c cyc = { au.pushes c (samplePos c cyc - au.currentSample) with
      currentSample := samplePos c cyc, speaker := -au.speaker } := by
  rw [Audio.click, if_neg (by omega), if_neg (by omega)]

/-- A click between the two distances enters `delta` samples. (The position is named, because the kernel would otherwise
compute its quotient where it compares two mixers.) -/
theorem Audio.click_entries {pos : Nat} (hc : c.accepted = true) (h : audioOk c au) (hpos : samplePos c cyc = pos)
    (hl : au.currentSample < pos) (hr : pos < au.currentSample + c.sampleBufferOffset) :
    (au.click c cyc).currentSample = pos ∧ (au.click c cyc).write = (au.write + (pos - au.currentSample)) % c.ringN
      ∧ (∀ j, j < pos - au.currentSample → (au.click c cyc).ring[(au.write + j) % c.ringN]? = some au.speaker)
      ∧ (∀ k, k < c.ringN → (∀ j, j < pos - au.currentSample → k ≠ (au.write + j) % c.ringN) →
          (au.click c cyc).ring[k]? = au.ring[k]?)
      ∧ (au.click c cyc).unread c = min (au.unread c + (pos - au.currentSample)) (c.ringN - 1) := by
  have ⟨_, hw, _⟩ := h
  have slots := Audio.pushes_ring (pos - au.currentSample) h hc
  rw [Audio.click_between (by rwa [hpos]) (by rwa [hpos]), hpos]
  refine ⟨rfl, Audio.pushes_write _ hw, fun j hj => ?_, fun k _ hk => ?_, Audio.unread_pushes hc _ h⟩
  · rw [slots, if_pos ⟨j, hj, rfl⟩]
  · rw [slots, if_neg fun ⟨j, hj, he⟩ => hk j hj he]

/-- The sign inverts whatever the position, and what the drain keeps for itself stays. -/
theorem Audio.click_kept (hw : au.write < c.ringN) : (au.click c cyc).speaker = -au.speaker
    ∧ (au.click c cyc).last = au.last ∧ (au.click c cyc).secondaryIndex = au.secondaryIndex := by
  obtain ⟨ring, read, entries⟩ := Audio.pushes_result (samplePos c cyc - au.currentSample) hw
  unfold Audio.click
  rw [entries]
  split_ifs <;> exact ⟨rfl, rfl, rfl⟩

end Click

/-- Settles O47: the three branches of `click`, the entries of the last being `pushes`. -/
theorem speakerClickRule : Obligations.SpeakerClickRule := by
  intro c cyc au hc h
  have ⟨_, hw, _⟩ := h
  obtain ⟨speaker, last, index⟩ := Audio.click_kept (cyc := cyc) hw
  refine ⟨speaker, last, index, fun hp => ?early, fun hp => ?anchor, fun hl hr => ?between⟩
  case early =>
    rw [Audio.click_early hp]
    exact ⟨rfl, rfl, rfl, rfl⟩
  case anchor =>
    rw [Audio.click_anchor hc hp]
    exact ⟨rfl, rfl, rfl, rfl⟩
  case between => exact Audio.click_entries hc h rfl hl hr

/-! ## Drain and sync (63_audio.md R570, R575, R578) -/

section Drain

variable {c : Params} {au : Audio}

theorem clamp16_mem (v : Int) : -32768 ≤ clamp16 v ∧ clamp16 v ≤ 32767 := by
  unfold clamp16
  omega

theorem clamp16_clamp16 (v : Int) : clamp16 (clamp16 v) = clamp16 v := by
  unfold clamp16
  omega

theorem Audio.drain_length (k : Nat) (au : Audio) : (au.drain c k).1.length = k := by
  induction k generalizing au with
  | zero => rfl
  | succ k ih => exact congrArg (· + 1) (ih _)

theorem Audio.drain_clamped (k : Nat) (au : Audio) : ∀ pair ∈ (au.drain c k).1,
    -32768 ≤ pair.1 ∧ pair.1 ≤ 32767 ∧ -32768 ≤ pair.2 ∧ pair.2 ≤ 32767 := by
  induction k generalizing au with
  | zero => exact nofun
  | succ k ih =>
    intro pair hp
    obtain rfl | hp := List.mem_cons.1 hp
    · exact ⟨(clamp16_mem _).1, (clamp16_mem _).2, clamp16_mem _⟩
    · exact ih _ pair hp

/-- One pair: the contribution taken, scaled, with the secondary pair where that source is enabled. -/
theorem Audio.drainOne_eq (au : Audio) : au.drainOne c =
    let m := clamp16 (scaleVolume c (au.take c).1)
    let second := Config.secondarySample (au.take c).2.secondaryIndex
    if c.secondaryEnabled then
      ((clamp16 (m + second.1.toInt), clamp16 (m + second.2.toInt)),
        { (au.take c).2 with secondaryIndex := (au.take c).2.secondaryIndex + 1 })
    else ((m, m), (au.take c).2) := by
  simp only [Audio.drainOne, Audio.secondary]
  split
  · rfl
  · simp only [Int.add_zero, clamp16_clamp16]

theorem Audio.take_unread (h : au.write ≠ au.read) : au.take c = (au.ring.getD au.read 0,
    { au with ring := au.ring.set au.read 0, read := (au.read + 1) % c.ringN, last := au.ring.getD au.read 0 }) := if_pos h

theorem Audio.take_empty (h : au.write = au.read) : au.take c = (au.last, au) := if_neg (not_not.2 h)

theorem audioDrain_one (s : State) :
    audioDrain 1 s = ([(s.audio.drainOne s.cfg).1], { s with audio := (s.audio.drainOne s.cfg).2 }) := by
  rw [audioDrain, Audio.drain, Audio.drain]

end Drain

/-- Settles O48: one pair is `drainOne_eq` of what `take` takes; `k + 1` pairs are one and then `k` by the recursion. -/
theorem drainAndSyncRules : Obligations.DrainAndSyncRules := by
  intro k cyc s ⟨ringLength, _⟩ au clamp scaled second mixed index
  refine ⟨Audio.drain_length k _, Audio.drain_clamped k _, rfl, rfl, fun h => ?unread, fun h => ?empty, ?sync⟩
  case unread =>
    rw [audioDrain_one, Audio.drainOne_eq, Audio.take_unread h]
    simp only [mixed, index]
    split <;> rfl
  case empty =>
    rw [audioDrain_one, Audio.drainOne_eq, Audio.take_empty h]
    simp only [mixed, index]
    split <;> rfl
  case sync => rw [audioSync, Audio.sync, List.map_const', ringLength]; rfl

end Sys2Proof.Machine

/-! Proofs of the family 64_disk_lss.md: track bits (R601, R602, R608), the sequencer (R605 to R607), the stepper (R610,
R612), track changes (R614), the I/O range (R620) and media (R640). -/

namespace Sys2Proof.Machine

/-! ## Tracks of a medium (64_disk_lss.md R601, 10_state.md R53) -/

section Tracks

variable {m : Medium} {q : Nat}

theorem Medium.trackAt_noise (h : m.refAt q = .noise) : m.trackAt q = none := by rw [Medium.trackAt, h]

theorem Medium.updateAt_noise (h : m.refAt q = .noise) (f : Track → Track) : m.updateAt q f = m := by
  rw [Medium.updateAt, h]

theorem Medium.updateAt_track {n : Fin 35} (h : m.refAt q = .track n) (f : Track → Track) :
    m.updateAt q f = { m with tracks := m.tracks.modify n.val f } := by
  rw [Medium.updateAt, h]

theorem Medium.refAt_updateAt (q' : Nat) (f : Track → Track) : (m.updateAt q f).refAt q' = m.refAt q' := by
  unfold Medium.updateAt
  split <;> rfl

/-- The quarter-tracks of the same physical track have the new one, the others the one they had. -/
theorem Medium.trackAt_updateAt (q' : Nat) (f : Track → Track) :
    (m.updateAt q f).trackAt q' = if m.refAt q' = m.refAt q then (m.trackAt q').map f else m.trackAt q' := by
  simp only [Medium.trackAt, Medium.refAt_updateAt]
  cases there : m.refAt q' with
  | noise => exact (ite_self _).symm
  | track k =>
    cases here : m.refAt q with
    | noise => rw [Medium.updateAt_noise here, if_neg nofun]
    | track n =>
      simp only [Medium.updateAt_track here, List.getElem?_modify, TrackRef.track.injEq, Fin.ext_iff, eq_comm]
      split <;> simp

/-- An update that keeps every track's length keeps `bit_count` everywhere. -/
theorem Medium.bitCountAt_updateAt {f : Track → Track} (hf : ∀ t, (f t).bitCount = t.bitCount) (q' : Nat) :
    (m.updateAt q f).bitCountAt q' = m.bitCountAt q' := by
  rw [Medium.bitCountAt, Medium.bitCountAt, Medium.trackAt_updateAt]
  cases m.trackAt q' with
  | none => rw [Option.map_none, ite_self]
  | some t =>
    rw [Option.map_some]
    split_ifs
    · exact hf t
    · rfl

theorem Medium.bitCountAt_noise (h : m.refAt q = .noise) : m.bitCountAt q = 0 := by
  rw [Medium.bitCountAt, Medium.trackAt_noise h]

theorem Medium.bitCountAt_track {t : Track} (h : m.trackAt q = some t) : m.bitCountAt q = t.bitCount := by
  rw [Medium.bitCountAt, h]

theorem Medium.bitsAt_noise (h : m.refAt q = .noise) : m.bitsAt q = [] := by
  rw [Medium.bitsAt, Medium.trackAt_noise h]

theorem Medium.bitsAt_track {t : Track} (h : m.trackAt q = some t) : m.bitsAt q = t.bits := by
  rw [Medium.bitsAt, h]

variable {d : Drive}

theorem Drive.bitCount_empty (h : d.medium = none) : d.bitCount = 0 := by rw [Drive.bitCount, h]

theorem Drive.bitCount_mounted (h : d.medium = some m) : d.bitCount = m.bitCountAt d.qtrack := by rw [Drive.bitCount, h]

end Tracks

/-! ## One bit of a byte, one bit of a track (64_disk_lss.md R601, R610) -/

/-- A byte with one bit set to a value. -/
theorem getLsbD_setBit (old : Byte) {p : Nat} (hp : p < 8) (b : Bool) (j : Nat) :
    (if b then old ||| 1#8 <<< p else old &&& ~~~(1#8 <<< p)).getLsbD j = if j = p then b else old.getLsbD j := by
  have mask : (1#8 <<< p).getLsbD j = decide (j = p) := by
    rw [← BitVec.twoPow_eq, BitVec.getLsbD_twoPow, decide_eq_true hp, Bool.true_and]
    exact decide_eq_decide.2 eq_comm
  by_cases hj : j = p
  · subst hj
    cases b <;> simp [hp]
  · cases b with
    | true => simp [mask, hj]
    | false => simpa [mask, hj] using BitVec.lt_of_getLsbD

/-- Bits of a track lie at different places of its bytes. -/
theorem trackBit_setTrackBit {data : Memory} (h : data.wf = true) (i j : Nat) (b : Bool) :
    trackBit (setTrackBit data i b) j = if j = i then b else trackBit data j := by
  have place : (j / 8 = i / 8 ∧ 7 - j % 8 = 7 - i % 8) ↔ j = i := by omega
  simp only [trackBit, setTrackBit, Memory.read_write h]
  by_cases byte : j / 8 = i / 8
  · rw [if_pos byte, getLsbD_setBit _ (by omega), byte]
    simp only [← place, byte, true_and]
  · rw [if_neg byte, if_neg (mt place.2 fun h => byte h.1)]

/-! ## Reading and writing the bit under the head (64_disk_lss.md R602, R608) -/

section HeadBit

variable {d : Drive} {draws : Nat} {b : Bool}

theorem Drive.readBit_track (h : 0 < d.bitCount) : d.readBit draws = (trackBit d.currTrack d.bitPosition, draws) := if_pos h

theorem Drive.readBit_drawn (h : d.bitCount = 0) : d.readBit draws = (Config.drawBit draws, draws + 1) :=
  if_neg (by omega)

theorem Drive.writeBit_refused (h : d.bitCount = 0 ∨ d.writeProtected = true) : d.writeBit b = d := by
  refine if_neg fun ⟨long, writable⟩ => ?_
  obtain h | h := h
  · omega
  · rw [writable] at h
    cases h

theorem Drive.writeBit_track (h : 0 < d.bitCount) (hw : d.writeProtected = false) : d.writeBit b =
    { d with
      currTrack := setTrackBit d.currTrack d.bitPosition b
      medium := d.medium.map fun m => m.updateAt d.qtrack fun t => { t with dirty := true } } := if_pos ⟨h, hw⟩

theorem Drive.writeBit_bitCount : (d.writeBit b).bitCount = d.bitCount := by
  unfold Drive.writeBit
  split
  case isFalse => rfl
  case isTrue =>
    cases hm : d.medium with
    | none => rw [Drive.bitCount_empty hm, Drive.bitCount_empty]; rfl
    | some m =>
      rw [Drive.bitCount_mounted hm, Drive.bitCount_mounted rfl]
      exact Medium.bitCountAt_updateAt (f := fun t => { t with dirty := true }) (fun _ => rfl) _

/-- The track written to is marked dirty. -/
theorem Drive.writeBit_dirty (h : 0 < d.bitCount) (hw : d.writeProtected = false) {m : Medium} {t : Track}
    (hm : (d.writeBit b).medium = some m) (ht : m.trackAt d.qtrack = some t) : t.dirty = true := by
  rw [Drive.writeBit_track h hw] at hm
  obtain ⟨m', -, rfl⟩ := Option.map_eq_some_iff.1 hm
  rw [Medium.trackAt_updateAt, if_pos rfl] at ht
  obtain ⟨t', -, rfl⟩ := Option.map_eq_some_iff.1 ht
  rfl

end HeadBit

/-- Settles O50: the bit under the head is `trackBit` at `bit_position`, and a write changes that bit alone. -/
theorem trackBitWriteRead : Obligations.TrackBitWriteRead := by
  intro d b draws drawn
  refine ⟨fun _ _ => rfl, Drive.bitCount_empty, fun m hm hn => ?noise, fun m t hm ht => ?track, Drive.readBit_drawn,
    fun h => ⟨Drive.bitPosition_lt h, Drive.readBit_track h⟩, Drive.bitPosition_eq, fun _ => rfl, Drive.writeBit_refused,
    fun h hw wf => ?write⟩
  case noise => rw [Drive.bitCount_mounted hm, Medium.bitCountAt_noise hn]
  case track => rw [Drive.bitCount_mounted hm, Medium.bitCountAt_track ht]
  case write =>
    have written := Drive.writeBit_track (b := b) h hw
    have bits (i : Nat) : trackBit (d.writeBit b).currTrack i = if i = d.bitPosition then b else trackBit d.currTrack i := by
      rw [written]
      exact trackBit_setTrackBit wf _ i b
    have head : (d.writeBit b).headPosition = d.headPosition := by rw [written]
    have position : (d.writeBit b).bitPosition = d.bitPosition := by
      rw [Drive.bitPosition, Drive.bitPosition, head, Drive.writeBit_bitCount]
    refine ⟨(bits _).trans (if_pos rfl), fun i hi => (bits i).trans (if_neg hi), fun m t => Drive.writeBit_dirty h hw, head,
      Drive.writeBit_bitCount, ?_⟩
    rw [Drive.readBit_track (by rwa [Drive.writeBit_bitCount]), position, bits, if_pos rfl]

/-! ## The two drives of the controller -/

section Drives

variable (dk : Disk) (d : Fin 2)

/-- Replacing a drive replaces one of the two fields. -/
theorem Disk.setDrive_eq (dr : Drive) : dk.setDrive d dr =
    { dk with drive0 := if d = 0 then dr else dk.drive0, drive1 := if d = 0 then dk.drive1 else dr } := by
  unfold Disk.setDrive
  split <;> rfl

theorem Disk.drive_setDrive (dr : Drive) (e : Fin 2) : (dk.setDrive d dr).drive e = if e = d then dr else dk.drive e := by
  fin_cases d <;> fin_cases e <;> rfl

theorem Disk.drive_syncMotors :
    dk.syncMotors.drive d = { dk.drive d with motor := dk.motor && decide (dk.selected = d) } := by
  fin_cases d <;> rfl

theorem otherDrive_ne : 1 - d ≠ d := by revert d; decide

theorem eq_otherDrive_iff (e : Fin 2) : e = 1 - d ↔ e ≠ d := by revert d e; decide

theorem Disk.sel_setDrive (dr : Drive) : (dk.setDrive dk.selected dr).sel = dr := by
  have selected : (dk.setDrive dk.selected dr).selected = dk.selected := by rw [Disk.setDrive_eq]
  rw [Disk.sel, selected, Disk.drive_setDrive, if_pos rfl]

theorem Disk.setDrive_other (dr : Drive) : (dk.setDrive d dr).drive (1 - d) = dk.drive (1 - d) := by
  rw [Disk.drive_setDrive, if_neg (otherDrive_ne d)]

end Drives

/-! ## The sequencer (64_disk_lss.md R605 to R607) -/

section Sequencer

variable {c : Params} {dk : Disk} {draws : Nat}

theorem Disk.cellStep_within (h : dk.clock + 4 < c.bitTiming) :
    dk.cellStep c draws = ({ dk with clock := dk.clock + 4, rp := false }, draws) := if_neg (by omega)

variable (c dk) in
/-- The controller as a new bit cell leaves it: the selected drive, `clock`, `head` and `rp` written, all else kept. -/
def Disk.newCell (dr : Drive) (head rp : Bool) : Disk :=
  { dk.setDrive dk.selected dr with clock := dk.clock + 4 - c.bitTiming, head := head, rp := rp }

theorem Disk.cellStep_write (h : c.bitTiming ≤ dk.clock + 4) (hq : dk.q7 = true) : dk.cellStep c draws =
    (dk.newCell c (dk.sel.writeBit (dk.dataRegister.getLsbD 7)).advance dk.head false, draws) := by
  rw [Disk.cellStep, if_pos h, if_pos hq, Disk.newCell, Disk.setDrive_eq]

theorem Disk.cellStep_read (h : c.bitTiming ≤ dk.clock + 4) (hq : dk.q7 = false) : dk.cellStep c draws =
    (dk.newCell c dk.sel.advance (dk.sel.readBit draws).1 (dk.sel.readBit draws).1, (dk.sel.readBit draws).2) := by
  rw [Disk.cellStep, if_pos h, if_neg (Bool.eq_false_iff.1 hq), Disk.newCell]

theorem Disk.newCell_eq (dr : Drive) (head rp : Bool) : dk.newCell c dr head rp =
    { dk with
      drive0 := if dk.selected = 0 then dr else dk.drive0, drive1 := if dk.selected = 0 then dk.drive1 else dr
      clock := dk.clock + 4 - c.bitTiming, head := head, rp := rp } := by
  rw [Disk.newCell, Disk.setDrive_eq]

theorem Disk.newCell_sel (dr : Drive) (head rp : Bool) : (dk.newCell c dr head rp).sel = dr := Disk.sel_setDrive dk dr

theorem Disk.newCell_other (dr : Drive) (head rp : Bool) :
    (dk.newCell c dr head rp).drive (1 - dk.selected) = dk.drive (1 - dk.selected) := Disk.setDrive_other dk _ dr

theorem Disk.lssIndex_eq : dk.lssIndex = 16 * dk.lssState.toNat + 8 * dk.q7.toNat + 4 * dk.q6.toNat
    + 2 * (dk.dataRegister.getLsbD 7).toNat + dk.rp.toNat := by
  simp only [Disk.lssIndex, Nat.mul_comm]

/-- The sixteen actions (R607). -/
theorem lssAct_eq (a : BitVec 4) (data write : Byte) (wp : Bool) : lssAct a data write wp =
    if a.toNat < 8 then 0#8
    else if a.toNat = 9 then data <<< 1
    else if a.toNat = 13 then (data <<< 1) ||| 1#8
    else if a.toNat = 10 ∨ a.toNat = 14 then (data >>> 1) ||| (if wp then 0x80#8 else 0#8)
    else if a.toNat = 11 ∨ a.toNat = 15 then write
    else data := by
  obtain ⟨⟨n, h⟩⟩ := a
  change n < 16 at h
  interval_cases n <;> rfl

theorem lowNibble_toNat (v : Byte) : (v.extractLsb' 0 4).toNat = v.toNat % 16 := by
  rw [BitVec.extractLsb'_toNat, Nat.shiftRight_zero]

theorem highNibble_eq (v : Byte) : v.extractLsb' 4 4 = BitVec.ofNat 4 (v.toNat / 16) := by
  apply BitVec.eq_of_toNat_eq
  rw [BitVec.extractLsb'_toNat, BitVec.toNat_ofNat, Nat.shiftRight_eq_div_pow]

theorem Disk.lssSteps_eq_iterate (n : Nat) (dk : Disk) (draws : Nat) :
    Disk.lssSteps c n dk draws = (fun q : Disk × Nat => q.1.lssStep c q.2)^[n] (dk, draws) := by
  induction n generalizing dk draws with
  | zero => rfl
  | succ n ih => exact ih _ _

theorem Disk.run_still (k : Nat) (h : dk.motor = false ∨ dk.sel.medium = none) : dk.run c k draws = (dk, draws) := by
  refine if_neg fun ⟨on, mounted⟩ => ?_
  obtain h | h := h
  · rw [on] at h
    cases h
  · rw [h] at mounted
    cases mounted

theorem Disk.run_turning (k : Nat) (on : dk.motor = true) (mounted : dk.sel.medium ≠ none) :
    dk.run c k draws = (fun q : Disk × Nat => q.1.lssStep c q.2)^[c.lssStepsPerCycle * k] (dk, draws) := by
  rw [Disk.run, if_pos ⟨on, Option.isSome_iff_ne_none.2 mounted⟩, Disk.lssSteps_eq_iterate]

theorem Drive.advance_still {d : Drive} (h : d.bitCount = 0) : d.advance = d := if_neg (by omega)

theorem Drive.advance_track {d : Drive} (h : d.bitCount ≠ 0) :
    d.advance = { d with headPosition := (d.bitPosition + 1) % d.bitCount } := if_pos (by omega)

/-- The head moves on by one bit, around the track (R606). -/
theorem Drive.advance_result (d : Drive) :
    d.advance.bitPosition = (if d.bitCount = 0 then d.bitPosition else (d.bitPosition + 1) % d.bitCount)
      ∧ d.advance.headPosition = (if d.bitCount = 0 then d.headPosition else (d.bitPosition + 1) % d.bitCount)
      ∧ d.advance.currTrack = d.currTrack ∧ d.advance.medium = d.medium ∧ d.advance.qtrack = d.qtrack := by
  split
  case isTrue h =>
    rw [Drive.advance_still h]
    exact ⟨rfl, rfl, rfl, rfl, rfl⟩
  case isFalse h =>
    rw [Drive.advance_track h]
    exact ⟨Nat.mod_mod _ _, rfl, rfl, rfl, rfl⟩

end Sequencer

/-- Settles O49: the two kinds of step of the bit cell, the ROM part, and the steps of a run as an iteration. -/
theorem sequencerStepRule : Obligations.SequencerStepRule := by
  intro c dk draws k cell byte a d
  refine ⟨Disk.cellStep_within, fun h => ?newCell, ?rom, rfl, Disk.run_still k, Disk.run_turning k, Drive.advance_result⟩
  case newCell =>
    obtain hq | hq := Bool.eq_false_or_eq_true dk.q7
    · have step := Disk.cellStep_write (draws := draws) h hq
      have new : cell = _ := congrArg Prod.fst step
      rw [new, step, Disk.newCell_sel, Disk.newCell_other, Disk.newCell_eq]
      exact ⟨rfl, rfl, rfl, rfl, rfl, rfl, rfl, rfl, rfl, rfl, fun _ => ⟨rfl, rfl, rfl, rfl⟩,
        fun off => absurd (hq.symm.trans off) nofun⟩
    · have step := Disk.cellStep_read (draws := draws) h hq
      have new : cell = _ := congrArg Prod.fst step
      rw [new, step, Disk.newCell_sel, Disk.newCell_other, Disk.newCell_eq]
      exact ⟨rfl, rfl, rfl, rfl, rfl, rfl, rfl, rfl, rfl, rfl, fun on => absurd (hq.symm.trans on) nofun,
        fun _ => ⟨rfl, rfl, rfl, rfl⟩⟩
  case rom =>
    have index : byte = lssRomByte c cell.lssIndex := by rw [Disk.lssIndex_eq]
    have action := lssAct_eq (byte.extractLsb' 0 4) d cell.writeRegister cell.sel.writeProtected
    rw [lowNibble_toNat] at action
    rw [Disk.lssStep, Disk.romStep, ← index, highNibble_eq, action]

/-! ## The head and its track (64_disk_lss.md R614) -/

section MoveHead

variable {d : Drive} {m : Medium} {q : Nat}

theorem Drive.moveHead_sameTrack (hm : d.medium = some m) (h : m.refAt q = m.refAt d.qtrack) :
    d.moveHead q = { d with qtrack := q } := by
  rw [Drive.moveHead, hm]
  exact if_pos h

theorem Drive.moveHead_otherTrack (hm : d.medium = some m) (h : m.refAt q ≠ m.refAt d.qtrack) :
    d.moveHead q = { d.storeTrack with
      qtrack := q, currTrack := m.bitsAt q
      headPosition := if m.bitCountAt q = 0 then 0 else d.bitPosition % m.bitCountAt q } := by
  rw [Drive.moveHead, hm]
  exact if_neg h

/-- A dirty track takes the bytes under the head, and is clean again; a clean one stays. -/
def Track.store (data : Memory) (t : Track) : Track := if t.dirty then { t with bits := data, dirty := false } else t

theorem Drive.storeTrack_medium (hm : d.medium = some m) :
    d.storeTrack.medium = some (m.updateAt d.qtrack (Track.store d.currTrack)) := by
  rw [Drive.storeTrack, hm]
  rfl

theorem Drive.moveHead_medium (hm : d.medium = some m) (h : m.refAt q ≠ m.refAt d.qtrack) :
    (d.moveHead q).medium = some (m.updateAt d.qtrack (Track.store d.currTrack)) := by
  rw [Drive.moveHead_otherTrack hm h, Drive.storeTrack_medium hm]

/-- Storing the old track changes no track's length. -/
theorem Drive.moveHead_bitCount (hm : d.medium = some m) (h : m.refAt q ≠ m.refAt d.qtrack) :
    (d.moveHead q).bitCount = m.bitCountAt q := by
  have sameLength (t : Track) : (t.store d.currTrack).bitCount = t.bitCount := by
    unfold Track.store
    split <;> rfl
  rw [Drive.bitCount_mounted (Drive.moveHead_medium hm h), Drive.moveHead_qtrack]
  exact Medium.bitCountAt_updateAt sameLength q

theorem Drive.moveHead_headPosition (hm : d.medium = some m) (h : m.refAt q ≠ m.refAt d.qtrack) :
    (d.moveHead q).headPosition = if m.bitCountAt q = 0 then 0 else d.bitPosition % m.bitCountAt q := by
  rw [Drive.moveHead_otherTrack hm h]

/-- After a change of track `headPosition` lies on the track, so it is `bit_position` (10_state.md R53). -/
theorem Drive.moveHead_bitPosition (hm : d.medium = some m) (h : m.refAt q ≠ m.refAt d.qtrack) :
    (d.moveHead q).bitPosition = if m.bitCountAt q = 0 then 0 else d.bitPosition % m.bitCountAt q := by
  rw [Drive.bitPosition, Drive.moveHead_headPosition hm h, Drive.moveHead_bitCount hm h]
  split
  case isTrue => exact Nat.zero_mod _
  case isFalse => exact Nat.mod_mod _ _

end MoveHead

/-- Settles O52: a change of track stores the old track by `updateAt` and loads the new one. -/
theorem trackChangeRule : Obligations.TrackChangeRule := by
  intro d m q hm
  refine ⟨Drive.moveHead_sameTrack hm, fun h old hold => ?stored, fun h hn => ?noise,
    fun h => ⟨?qtrack, ?head, fun t ht => ?track, fun hn => ?toNoise⟩⟩
  case stored =>
    rw [Drive.moveHead_medium hm h, Medium.updateAt_track hold]
    rfl
  case noise => rw [Drive.moveHead_medium hm h, Medium.updateAt_noise hn]
  case qtrack => rw [Drive.moveHead_qtrack]
  case head => rw [Drive.moveHead_headPosition hm h, Drive.moveHead_bitPosition hm h]
  case track =>
    rw [Drive.moveHead_bitPosition hm h, Drive.moveHead_otherTrack hm h, Medium.bitCountAt_track ht]
    exact ⟨Medium.bitsAt_track ht, rfl⟩
  case toNoise =>
    rw [Drive.moveHead_bitPosition hm h, Drive.moveHead_otherTrack hm h, Medium.bitCountAt_noise hn]
    exact ⟨Medium.bitsAt_noise hn, rfl⟩

/-! ## The I/O range on the bus (64_disk_lss.md R620, 20_memory.md R95) -/

section DiskRange

variable (s : State) (off : BitVec 4)

/-- The offset in the I/O page of an address of the controller. -/
def diskOffset (c : Params) : Byte := BitVec.ofNat 8 (0x80 + 16 * c.diskSlot.val + off.toNat)

theorem diskOffset_toNat (c : Params) : (diskOffset off c).toNat = 0x80 + 16 * c.diskSlot.val + off.toNat := by
  have := c.diskSlot.isLt
  have := off.isLt
  rw [diskOffset, BitVec.toNat_ofNat]
  omega

theorem diskOffset_ne (c : Params) {k : Byte} (h : k.toNat < 0x80) : diskOffset off c ≠ k := by
  intro he
  have := diskOffset_toNat off c
  rw [he] at this
  omega

theorem diskAddr_eq (c : Params) :
    0xC080#16 + BitVec.ofNat 16 (16 * c.diskSlot.val + off.toNat) = 0xC0#8 ++ diskOffset off c := by
  have := c.diskSlot.isLt
  have := off.isLt
  apply BitVec.eq_of_toNat_eq
  rw [ioAddr_toNat, diskOffset_toNat, BitVec.toNat_add, BitVec.toNat_ofNat, BitVec.toNat_ofNat]
  omega

theorem isDiskOffset_diskOffset (c : Params) : isDiskOffset c (diskOffset off c) = true := by
  have := off.isLt
  rw [isDiskOffset_iff, diskOffset_toNat]
  omega

theorem diskOffset_low (c : Params) : (diskOffset off c).extractLsb' 0 4 = off := by
  have := off.isLt
  apply BitVec.eq_of_toNat_eq
  rw [lowNibble_toNat, diskOffset_toNat]
  omega

/-- An access of the controller reaches the disk and no other device. -/
theorem ioEffect_disk_only (acc : Access) :
    s.ioEffect (diskOffset off s.cfg) acc = { s with disk := s.disk.access s.cfg off acc.written } := by
  have far {k : Byte} := diskOffset_ne off s.cfg (k := k)
  have switches : s.sw.access s.cfg (diskOffset off s.cfg) acc = s.sw := by
    refine SoftSwitches.access_unlisted _ _ _ fun hl => ?_
    have low : ∀ k ∈ [0x00#8, 0x01#8, 0x0C#8, 0x0D#8, 0x0E#8, 0x0F#8, 0x50#8, 0x51#8, 0x52#8, 0x53#8, 0x54#8, 0x55#8, 0x56#8,
      0x57#8, 0x5E#8, 0x5F#8], k.toNat < 0x80 := by simp
    exact far (low _ hl) rfl
  rw [State.ioEffect, switches, isDiskOffset_diskOffset, diskOffset_low, if_neg (far (by decide)), if_neg (far (by decide)),
    if_neg (not_or.2 ⟨far (by decide), far (by decide)⟩)]
  rfl

theorem ioRead_disk_even (h : off.toNat % 2 = 0) : s.ioRead (diskOffset off s.cfg) =
    (s.disk.dataRegister, { s with disk := s.disk.action s.cfg off }) := by
  have even : (diskOffset off s.cfg).getLsbD 0 = false := by
    rw [getLsbD_zero_eq_false_iff, diskOffset_toNat]
    omega
  have fixed : s.ioFixed (diskOffset off s.cfg) = (0xFF#8, s.disk.dataRegister) := by
    rw [State.ioFixed, if_neg (by rw [diskOffset_toNat]; omega), if_neg (diskOffset_ne off s.cfg (by decide)),
      isDiskOffset_diskOffset, even]
    rfl
  rw [State.ioRead, fixed, ioEffect_disk_only]
  rfl

theorem ioRead_disk_odd (h : off.toNat % 2 = 1) : s.ioRead (diskOffset off s.cfg) =
    (Config.drawByte s.draws, { s with disk := s.disk.action s.cfg off, draws := s.draws + 1 }) := by
  have fixed : s.ioFixed (diskOffset off s.cfg) = (0#8, 0#8) := by
    refine ioFixed_free s ?_ (diskOffset_ne off s.cfg (by decide)) fun ⟨_, even⟩ => ?_
    · rw [diskOffset_toNat]
      omega
    · rw [diskOffset_toNat] at even
      omega
  rw [State.ioRead, fixed, if_neg (by decide), ioEffect_disk_only]
  refine Prod.ext ?_ rfl
  simp [and_ff]

theorem busRead_disk :
    busRead (0xC080#16 + BitVec.ofNat 16 (16 * s.cfg.diskSlot.val + off.toNat)) s =
      (if off.toNat % 2 = 0 then s.disk.dataRegister else Config.drawByte s.draws,
        { s with disk := s.disk.action s.cfg off, draws := s.draws + off.toNat % 2 }) := by
  rw [diskAddr_eq, busRead_ioAddr]
  obtain h | h := Nat.mod_two_eq_zero_or_one off.toNat
  · rw [ioRead_disk_even s off h, h]
    rfl
  · rw [ioRead_disk_odd s off h, h]
    rfl

theorem busWrite_disk (v : Byte) :
    busWrite (0xC080#16 + BitVec.ofNat 16 (16 * s.cfg.diskSlot.val + off.toNat)) v s =
      { s with disk := { s.disk.action s.cfg off with writeRegister := v } } := by
  rw [diskAddr_eq, busWrite_ioAddr, ioEffect_disk_only]
  rfl

end DiskRange

/-! ## What the sixteen addresses do (64_disk_lss.md R620) -/

section Action

variable {c : Params} {dk : Disk} {off : BitVec 4}

/-- Offset `2n + v` puts phase `n` to `v`. -/
theorem Disk.action_phaseBit (n : Fin 4) (v : Bool) :
    dk.action c (BitVec.ofNat 4 (2 * n.val + v.toNat)) = dk.setDrive dk.selected (dk.sel.setPhase c n v) := by
  fin_cases n <;> cases v <;> rfl

theorem Disk.action_phase {n : Fin 4} (h : off.toNat < 8) (hn : n.val = off.toNat / 2) : dk.action c off
    = dk.setDrive dk.selected (dk.sel.setPhase c n (decide (off.toNat % 2 = 1))) := by
  have bits : off = BitVec.ofNat 4 (2 * n.val + (decide (off.toNat % 2 = 1)).toNat) := by
    have low : (decide (off.toNat % 2 = 1)).toNat = off.toNat % 2 := by
      obtain even | odd := Nat.mod_two_eq_zero_or_one off.toNat
      · rw [even]; rfl
      · rw [odd]; rfl
    apply BitVec.eq_of_toNat_eq
    rw [BitVec.toNat_ofNat, hn, low]
    omega
  rw [← Disk.action_phaseBit, ← bits]

theorem Disk.action_writeRegister (c : Params) (dk : Disk) (off : BitVec 4) :
    (dk.action c off).writeRegister = dk.writeRegister := by
  unfold Disk.action
  split
  case h_1 | h_2 | h_3 | h_4 | h_5 | h_6 | h_7 | h_8 => rw [Disk.setDrive_eq]
  all_goals rfl

end Action

/-- Settles O53: an access is the action of its offset, and each action is its record update. -/
theorem diskIoAddresses : Obligations.DiskIoAddresses := by
  intro s off v q rd wr dk
  have read := busRead_disk s off
  have write := busWrite_disk s off v
  have action : rd = dk.action s.cfg off := congrArg (fun r : Byte × State => r.2.disk) read
  have written : wr = _ := congrArg State.disk write
  rw [written, action]
  refine ⟨fun h => ?even, fun h => ?odd, rfl, Disk.action_writeRegister _ _ _, fun h n hn => Disk.action_phase h hn,
    congrArg Prod.snd read, write, fun h => ?motorOff, fun h => ?motorOn, fun h => ?select0, fun h => ?select1,
    fun h => ?q6Off, fun h => ?q6On, fun h => ?q7Off, fun h => ?q7On⟩
  case even => exact (congrArg Prod.fst read).trans (if_pos h)
  case odd => exact (congrArg Prod.fst read).trans (if_neg (by omega))
  case motorOff => rw [h]; rfl
  case motorOn => rw [h]; rfl
  case select0 => rw [h]; simp [Disk.action, Disk.syncMotors]
  case select1 => rw [h]; simp [Disk.action, Disk.syncMotors]
  case q6Off | q6On | q7Off | q7On => rw [h]; rfl

/-! ## Phases and the stepper (64_disk_lss.md R610, R612) -/

section Stepper

variable {c : Params} {d : Drive} {n : Fin 4} {v : Bool} {stepper : Byte} {q : Nat}

theorem Drive.setPhase_same (h : d.stepper.getLsbD n.val = v) : d.setPhase c n v = d := if_pos h

/-- The phase bits with one of them put to a value. -/
def putPhase (stepper : Byte) (n : Fin 4) (v : Bool) : Byte :=
  if v then stepper ||| 1#8 <<< n.val else stepper &&& ~~~(1#8 <<< n.val)

theorem getLsbD_putPhase (m : Nat) : (putPhase stepper n v).getLsbD m = if m = n.val then v else stepper.getLsbD m :=
  getLsbD_setBit stepper (Nat.lt_trans n.isLt (by decide)) v m

theorem Drive.setPhase_change (h : d.stepper.getLsbD n.val ≠ v) : d.setPhase c n v =
    { d with stepper := putPhase d.stepper n v }.moveHead (stepHead c (putPhase d.stepper n v) n.val d.qtrack) := if_neg h

theorem stepperTarget_none (h : stepper.toNat % 16 ∈ [0, 5, 7, 10, 11, 13, 14, 15]) : stepperTarget stepper = none := by
  rw [← lowNibble_toNat] at h
  unfold stepperTarget
  generalize (stepper.extractLsb' 0 4).toNat = on at h
  fin_cases h <;> rfl

theorem stepperTarget_some {p target : Nat}
    (h : (p, target) ∈ [(1, 0), (3, 1), (2, 2), (6, 3), (4, 4), (12, 5), (8, 6), (9, 7)]) (hp : stepper.toNat % 16 = p) :
    stepperTarget stepper = some target := by
  rw [stepperTarget, lowNibble_toNat, hp]
  fin_cases h <;> rfl

theorem defaultStep_free (h : stepperTarget stepper = none) : defaultStep stepper q = q := by rw [defaultStep, h]

theorem defaultStep_pulled {target : Nat} (h : stepperTarget stepper = some target) :
    ((target + 8 - q % 8) % 8 ∈ [1, 2, 3] → defaultStep stepper q = min (q + 1) 140)
      ∧ ((target + 8 - q % 8) % 8 ∈ [5, 6, 7] → defaultStep stepper q = q - 1)
      ∧ ((target + 8 - q % 8) % 8 ∈ [0, 4] → defaultStep stepper q = q) := by
  rw [defaultStep, h]
  simp only [List.mem_cons, List.not_mem_nil, or_false]
  refine ⟨fun hd => if_pos hd, fun hd => ?_, fun hd => ?_⟩
  · rw [if_neg (by omega), if_pos hd]
  · rw [if_neg (by omega), if_neg (by omega)]

theorem defaultStep_near (stepper : Byte) (hq : q ≤ 140) :
    q ≤ defaultStep stepper q + 1 ∧ defaultStep stepper q ≤ q + 1 := by
  unfold defaultStep
  split
  · omega
  · simp only [Config.qtrackMax]
    split_ifs <;> omega

/-- An action on a phase address is the phase change of the selected drive. -/
theorem Disk.action_phase_sel {dk : Disk} {off : BitVec 4} (h : off.toNat < 8) (hn : n.val = off.toNat / 2) :
    (dk.action c off).sel = dk.sel.setPhase c n (decide (off.toNat % 2 = 1)) := by
  rw [Disk.action_phase h hn, Disk.sel_setDrive]

end Stepper

/-- Settles O51: a phase change, its addresses on the bus, and the rule by what the phases pull to. -/
theorem stepperRule : Obligations.StepperRule := by
  refine ⟨fun c d n v => ⟨Drive.setPhase_same, fun h => ?changed⟩, fun s off n v hoff hn => ?bus,
    fun c stepper n q hc => ?default, fun stepper q hq => ?rule⟩
  case changed =>
    have moved := Drive.setPhase_change (c := c) h
    have others (m : Nat) := getLsbD_putPhase (stepper := d.stepper) (n := n) (v := v) m
    exact ⟨putPhase d.stepper n v, moved, by rw [moved, Drive.moveHead_stepper], (others _).trans (if_pos rfl),
      fun m hm => (others m).trans (if_neg hm), by rw [moved, Drive.moveHead_qtrack], Drive.setPhase_motor _ _ _⟩
  case bus =>
    intro q
    rw [busRead_disk, busWrite_disk]
    exact ⟨Disk.action_phase_sel hoff hn, Disk.action_phase_sel hoff hn⟩
  case default => rw [stepHead, hc]
  case rule =>
    exact ⟨defaultStep_le stepper hq, (defaultStep_near stepper hq).1, (defaultStep_near stepper hq).2,
      fun h => defaultStep_free (stepperTarget_none h), fun p target hp h => defaultStep_pulled (stepperTarget_some hp h)⟩

/-! ## Media (64_disk_lss.md R640) -/

section Media

variable {s : State} {d : Fin 2} {m : Medium} {wp : Bool} {mode : MountMode}

theorem mountDrive_badMedium (h : m.accepted = false) : mountDrive d m wp mode s = .refused .badMedium := if_pos h

theorem mountDrive_accepted (h : m.accepted = true) (ha : MediaAction.accepted (.mount d m wp mode) = true) :
    mountDrive d m wp mode s = .next { s with disk := s.disk.media (.mount d m wp mode) } := by
  rw [mountDrive, h, ha]
  rfl

theorem resetMount_accepted {p : HeadPlacement} (h : m.accepted = true) :
    MediaAction.accepted (.mount d m wp (.reset p)) = decide (p.qtrack ≤ 140) := by
  rw [MediaAction.accepted, h, Bool.true_and]
  rfl

theorem mountDrive_badHeadPosition {p : HeadPlacement} (h : m.accepted = true) (hp : 140 < p.qtrack) :
    mountDrive d m wp (.reset p) s = .refused .badHeadPosition := by
  rw [mountDrive, h, resetMount_accepted h, decide_eq_false (by omega)]
  rfl

/-- A change of media reaches the drives and the motor only. -/
theorem Disk.media_drivesOnly (dk : Disk) (act : MediaAction) : dk.media act =
    { dk with drive0 := (dk.media act).drive0, drive1 := (dk.media act).drive1, motor := (dk.media act).motor } := by
  unfold Disk.media
  split <;> rw [Disk.setDrive_eq]
  rfl

/-- After a RESET mount each drive's motor follows the controller's (R620). -/
theorem Disk.drive_resetMount (dk : Disk) (p : HeadPlacement) (e : Fin 2) :
    (dk.media (.mount d m wp (.reset p))).drive e =
      { (if e = d then (dk.drive d).mount m wp (.reset p) else dk.drive e) with
        motor := (if d = dk.selected then p.motor else dk.motor) && decide (dk.selected = e) } := by
  rw [Disk.media, Disk.drive_syncMotors, ← Disk.drive_setDrive, Disk.setDrive_eq]
  rfl

/-- The mounted drive's motor is on when it is selected and the mount turns it on. -/
theorem resetMotor_here (sel d : Fin 2) (given kept : Bool) :
    ((if d = sel then given else kept) && decide (sel = d)) = (decide (sel = d) && given) := by
  by_cases h : sel = d
  · simp [h]
  · simp [h, Ne.symm h]

/-- The other drive keeps the controller's motor when it is selected. -/
theorem resetMotor_other (sel d : Fin 2) (given kept : Bool) :
    ((if d = sel then given else kept) && decide (sel = 1 - d)) = (decide (sel ≠ d) && kept) := by
  simp only [eq_otherDrive_iff]
  by_cases h : sel = d
  · simp [h]
  · simp [h, Ne.symm h]

theorem Drive.bitPosition_of_lt {dr : Drive} (hm : dr.medium = some m) (h : dr.headPosition < m.bitCountAt dr.qtrack) :
    dr.bitPosition = dr.headPosition := Drive.bitPosition_eq (by rwa [Drive.bitCount_mounted hm])

end Media

/-- Settles O54: what each change of media makes of the two drives and the motor. -/
theorem mountAndEject : Obligations.MountAndEject := by
  intro d m wp s old other out drivesOnly
  have only (act : MediaAction) : drivesOnly { s with disk := s.disk.media act } :=
    congrArg (fun dk => { s with disk := dk }) (Disk.media_drivesOnly s.disk act)
  have here (dr : Drive) : (s.disk.setDrive d dr).drive d = dr := (Disk.drive_setDrive _ _ _ _).trans (if_pos rfl)
  have there (dr : Drive) : (s.disk.setDrive d dr).drive (1 - d) = other := Disk.setDrive_other _ _ _
  have motor (dr : Drive) : (s.disk.setDrive d dr).motor = s.disk.motor := by rw [Disk.setDrive_eq]
  refine ⟨fun h mode => mountDrive_badMedium h,
    fun h => ⟨_, mountDrive_accepted h h, only _, motor _, here _, fun hp => ?position, there _⟩,
    fun h p => ⟨mountDrive_badHeadPosition h, fun hp => ?reset⟩,
    only (.eject d), motor _, here _, there _, fun h => ?noMedium, fun mounted h => Drive.storeTrack_medium h⟩
  case position =>
    exact (congrArg Drive.bitPosition (here _)).trans (Drive.bitPosition_of_lt (m := m) rfl hp)
  case reset =>
    have mounted := (Disk.drive_resetMount (m := m) (wp := wp) s.disk p d).trans (by rw [if_pos rfl, resetMotor_here])
    have unmounted := (Disk.drive_resetMount (m := m) (wp := wp) s.disk p (1 - d)).trans
      (by rw [if_neg (otherDrive_ne d), resetMotor_other])
    exact ⟨_, mountDrive_accepted h ((resetMount_accepted h).trans (decide_eq_true hp)), only _, if_congr eq_comm rfl rfl,
      mounted, fun hb => (congrArg Drive.bitPosition mounted).trans (Drive.bitPosition_of_lt (m := m) rfl hb), unmounted⟩
  case noMedium =>
    change (s.disk.drive d).medium.map _ = none
    rw [h]
    rfl

end Sys2Proof.Machine

/-! Proofs of the families 70_reset_and_hazards.md and other: creation and reset (R700 to R705), and the sample words of the
Encoding lines. -/

namespace Sys2Proof.Machine

/-! ## Creation and reset (70_reset_and_hazards.md R700 to R705) -/

theorem standard_accepted : Params.standard.accepted = true :=
  Params.accepted_iff.2 ⟨Nat.succ_pos _, by simp only [Params.standard]; omega, by decide, by decide⟩

/-- The first frame is black, of 240 rows of 320 pixels (62_video.md R500). -/
theorem blackFrame_size : blackFrame.length = 240 ∧ ∀ row ∈ blackFrame, row.length = 320 := by
  refine ⟨List.length_replicate, fun row hrow => ?_⟩
  rw [List.eq_of_mem_replicate hrow, List.length_replicate]

theorem created_inv {c : Params} (h : c.accepted = true) : Inv (State.created c) where
  params := h
  ram := ⟨rfl, rfl, rfl, rfl⟩
  audio := Audio.create_ok h
  disk := Disk.create_ok h
  video := ⟨rfl, Nat.succ_pos _, blackFrame_size⟩
  timers := rfl
  traps := .nil

/-- Every state that steps and host actions reach from creation has the invariant. -/
theorem Reachable.inv {s : State} (h : Reachable s) : Inv s := by
  induction h with
  | created c hc => exact created_inv hc
  | step _ hst ih => exact stepKeepsInvariant _ _ ih hst
  | host act _ hst ih => exact hostActionsKeepInvariant act _ _ ih hst

/-- Settles O44: creation has the invariant, and steps and host actions keep it. -/
theorem createdStatesHaveInvariant : Obligations.CreatedStatesHaveInvariant :=
  ⟨fun _ hc => created_inv hc, created_inv standard_accepted, fun _ hs => hs.inv⟩

theorem byteAt_of_empty {s : State} (hm : s.ramMain = []) (hx : s.ramAux = []) (b : Bank) (n : Nat) :
    s.byteAt b n = 0#8 := by
  cases b with
  | main => rw [State.byteAt, State.ram, hm]; rfl
  | aux => rw [State.byteAt, State.ram, hx]; rfl

/-- Settles O58: `reset` is its record update, and a cold one leaves RAM empty. -/
theorem resetRule : Obligations.ResetRule := fun _ _ => ⟨rfl, byteAt_of_empty rfl rfl⟩

theorem Disk.drive_create (d : Fin 2) : Disk.create.drive d = Drive.create := ite_self _

/-- Settles O59: `create` answers `State.created`, whose fields are those of the creation column. -/
theorem creationState : Obligations.CreationState := by
  intro c hc
  have drives (d : Fin 2) : (State.created c).disk.drive d = Drive.create := Disk.drive_create d
  refine ⟨State.created c, if_pos hc, rfl, rfl, rfl, rfl, rfl, rfl, rfl, rfl, rfl, rfl, rfl, byteAt_of_empty rfl rfl, rfl,
    rfl, rfl, rfl, rfl, rfl, rfl, rfl, rfl, rfl, rfl, rfl, rfl, rfl, rfl, rfl, rfl, rfl, rfl, rfl, rfl, rfl, rfl, rfl, rfl,
    rfl, rfl, fun d => ?drive⟩
  case drive =>
    rw [drives]
    exact ⟨rfl, rfl, rfl, rfl, rfl, rfl⟩

/-! ## Sample words (40_load_store.md to 46_flags_nop.md, Encoding lines) -/

/-- Settles O4: each word is decoded by evaluation. -/
theorem sampleWordsDecode : Obligations.SampleWordsDecode :=
  ⟨rfl, rfl, rfl, rfl, rfl, rfl, rfl, rfl, rfl, rfl, rfl, rfl, rfl, rfl, rfl, rfl, rfl, rfl, rfl, rfl, rfl, rfl, rfl⟩

end Sys2Proof.Machine
